-- ==== Sys2Proof/Word.lean ====
section
/-! DEFINITION. The two word types of the hardware (00_scope.md R7): the transfer octet and the 16-bit
window, cursor and colour word. -/

namespace Sys2Proof

/-- A transfer octet, an opcode, a parameter byte or a pixel channel: 8 bits (R7). -/
abbrev Byte := BitVec 8

/-- A window bound, a cursor coordinate or a packed colour word: 16 bits (R7). -/
abbrev Word := BitVec 16

end Sys2Proof
end

