-- ==== Sys2Proof/Syntax.lean ====
section
/-! DEFINITION. What the outside world presents to the block: latch levels, bytes tagged by the two
latches (30_encoding.md R90), the nine rows of the opcode table as instructions, and the operations of
the host and the renderer (00_scope.md R9). -/

namespace Sys2Proof

/-- The value of a signal latch (00_scope.md R11): `High` or `Low`. -/
inductive Level where
  | high
  | low
deriving DecidableEq, Repr

/-- The part a received byte plays for its command (R90): the command byte itself, or one data byte
`b` of the command in progress. -/
inductive ByteRole where
  | command
  | data (b : Byte)
deriving DecidableEq, Repr

/-- One received byte, as the row of spec/opcode_table.json it belongs to and the part it plays: the
row's command byte, or a data byte while that row's opcode is the current command (R104, R154; log
entry 4). One received byte is one atomic step of the hardware (R71). -/
inductive Instr where
  /-- `0x20`, inversion off. -/
  | invoff  (role : ByteRole)
  /-- `0x21`, inversion on. -/
  | invon   (role : ByteRole)
  /-- `0x28`, display off. -/
  | dispoff (role : ByteRole)
  /-- `0x29`, display on. -/
  | dispon  (role : ByteRole)
  /-- `0x2A`, column address set. -/
  | caset   (role : ByteRole)
  /-- `0x2B`, page address set. -/
  | paset   (role : ByteRole)
  /-- `0x2C`, memory write. -/
  | ramwr   (role : ByteRole)
  /-- `0x36`, memory access control. -/
  | madctl  (role : ByteRole)
  /-- Any of the 248 other opcodes `v`, which `cmd` records (R215). -/
  | other   (v : Byte) (role : ByteRole)
deriving DecidableEq, Repr

/-- The unit the decoder consumes (R90): one octet with the two latch values at the moment it is
presented. -/
structure Triple where
  chipSelect : Level
  dataSelect : Level
  byte       : Byte
deriving DecidableEq, Repr

/-- The operations of the host and the renderer (R9), each one atomic. `RESET` is the construction of
the device and no operation of a run (70_reset_and_hazards.md R260, R261). -/
inductive HostOp where
  /-- `CS_SET(level)`. -/
  | csSet (l : Level)
  /-- `DS_SET(level)`. -/
  | dsSet (l : Level)
  /-- `CS_GET`, by the host. -/
  | csGet
  /-- `DS_GET`, by the host. -/
  | dsGet
  /-- `WRITE_BYTE(b)`. -/
  | writeByte (b : Byte)
  /-- `SNAPSHOT`, by the renderer. -/
  | snapshot
deriving DecidableEq, Repr

end Sys2Proof
end

