-- ==== Sys2Proof/WellFormed.lean ====
section
/-! DEFINITION. Which terms of `Instr` stand for a byte of the hardware: `other` carries only an opcode
outside the eight recognised ones (30_encoding.md R104, R105). -/

namespace Sys2Proof

/-- The eight recognised opcodes (R104). -/
def recognisedOpcodes : List Byte :=
  [0x20#8, 0x21#8, 0x28#8, 0x29#8, 0x2A#8, 0x2B#8, 0x2C#8, 0x36#8]

/-- A recognised opcode is never an OTHER opcode; every other operand value is legal (R105). -/
def Instr.wellFormed : Instr → Bool
  | .invoff _  => true
  | .invon _   => true
  | .dispoff _ => true
  | .dispon _  => true
  | .caset _   => true
  | .paset _   => true
  | .ramwr _   => true
  | .madctl _  => true
  | .other v _ => !recognisedOpcodes.contains v

end Sys2Proof
end

