-- ==== Sys2Proof/Decode.lean ====
section
/-! DEFINITION. From a presented byte to an instruction and back (30_encoding.md R90, R104, R105).
Decoding is total: the one triple it does not turn into an instruction is a byte presented while
deselected, which is rejected by the name `notReceived`. -/

namespace Sys2Proof

/-- Why a presented byte is no instruction. -/
inductive Reject where
  /-- `chip_select` is `High`: the byte is not received (R90, R151). Raised by `decode`; not an error of
  the machine, which ignores the byte. -/
  | notReceived
deriving DecidableEq, Repr

/-- The answer of the decoder. -/
inductive Decoded where
  | instr (i : Instr)
  | rejected (r : Reject)
deriving DecidableEq, Repr

/-- The three classes of byte (R90). -/
inductive ByteClass where
  | notReceived
  | command (opcode : Byte)
  | data (b : Byte)
deriving DecidableEq, Repr

/-- The classification of R90, in its order: `chip_select` first, then `data_select`. -/
def Triple.classify (t : Triple) : ByteClass :=
  match t.chipSelect, t.dataSelect with
  | .high, _   => .notReceived
  | .low, .low  => .command t.byte
  | .low, .high => .data t.byte

/-- The opcode map of R104, matching the whole byte: the row an opcode belongs to. -/
def rowOf (opcode : Byte) (role : ByteRole) : Instr :=
  if opcode = 0x20#8 then .invoff role
  else if opcode = 0x21#8 then .invon role
  else if opcode = 0x28#8 then .dispoff role
  else if opcode = 0x29#8 then .dispon role
  else if opcode = 0x2A#8 then .caset role
  else if opcode = 0x2B#8 then .paset role
  else if opcode = 0x2C#8 then .ramwr role
  else if opcode = 0x36#8 then .madctl role
  else .other opcode role

/-- The decoder: a command byte names its own row, a data byte belongs to the row of the current
command `cmd` (R153, R154). -/
def decode (cmd : Byte) (t : Triple) : Decoded :=
  match t.classify with
  | .notReceived => .rejected .notReceived
  | .command op  => .instr (rowOf op .command)
  | .data b      => .instr (rowOf cmd (.data b))

/-- The opcode of an instruction's row (R104). -/
def Instr.opcode : Instr → Byte
  | .invoff _  => 0x20#8
  | .invon _   => 0x21#8
  | .dispoff _ => 0x28#8
  | .dispon _  => 0x29#8
  | .caset _   => 0x2A#8
  | .paset _   => 0x2B#8
  | .ramwr _   => 0x2C#8
  | .madctl _  => 0x36#8
  | .other v _ => v

/-- The part an instruction's byte plays. -/
def Instr.role : Instr → ByteRole
  | .invoff r | .invon r | .dispoff r | .dispon r | .caset r | .paset r | .ramwr r | .madctl r => r
  | .other _ r => r

/-- The triple that presents an instruction: `C:NN` for a command byte, `D:NN` for a data byte (R90,
R91, R107). A data byte means what it does only while `cmd` holds `i.opcode`. -/
def encode (i : Instr) : Triple :=
  match i.role with
  | .command => ⟨.low, .low, i.opcode⟩
  | .data b  => ⟨.low, .high, b⟩

/-- What the decoder reads from a row of spec/opcode_table.json: its one byte, presented as a command
byte. Every row is 8 bits wide (R91), so a longer word is no instruction (log entry 10). -/
def decodeTableWord (nbits w : Nat) : Option Instr :=
  if nbits ≤ 8 then
    match decode 0x00#8 ⟨.low, .low, BitVec.ofNat 8 w⟩ with
    | .instr i    => some i
    | .rejected _ => none
  else none

end Sys2Proof
end

