-- ==== Sys2Proof/Config.lean ====
section
/-! DEFINITION. The construction parameters of a device (00_scope.md R5, R6, R8): `WIDTH`, `HEIGHT` and
`PIXEL_LAYOUT`. The spec leaves all three OPEN (92_eei_decisions.md D2, D13), so the device that
`State.reset` starts is made of constants without a body: nothing can be proved about their values but
the bounds of R5. -/

namespace Sys2Proof

/-- `PIXEL_LAYOUT` (R6): layout A is the compact 4/5/4 form, layout B is RGB565. -/
inductive PixelLayout where
  | A
  | B
deriving DecidableEq, Repr, Inhabited

/-- The parameters of one device (R5, R6). No other implementation parameter exists (R8). -/
structure Device where
  /-- `WIDTH`, in pixels. -/
  width  : Nat
  /-- `HEIGHT`, in pixels. -/
  height : Nat
  /-- `PIXEL_LAYOUT`. -/
  layout : PixelLayout
deriving DecidableEq, Repr

/-- The bounds R5 puts on the dimensions: a device outside them "is not an instance of this hardware". -/
abbrev Device.WellFormed (d : Device) : Prop :=
  1 ≤ d.width ∧ d.width ≤ 65535 ∧ 1 ≤ d.height ∧ d.height ≤ 65535

/-- `WIDTH - 1` of the device that `State.reset` starts: open (R5, D2), bounded by its type. -/
opaque Config.widthLessOne : Fin 65535

/-- `HEIGHT - 1` of the device that `State.reset` starts: open (R5, D2), bounded by its type. -/
opaque Config.heightLessOne : Fin 65535

/-- `PIXEL_LAYOUT` of the device that `State.reset` starts: open (R6, D13). -/
opaque Config.pixelLayout : PixelLayout

/-- The device that `State.reset` starts: any device within the bounds of R5 (log entry 1). -/
def Config.device : Device where
  width  := Config.widthLessOne.val + 1
  height := Config.heightLessOne.val + 1
  layout := Config.pixelLayout

end Sys2Proof
end

