-- ==== Sys2Proof/Machine/State.lean ====
section
/-! DEFINITION. The state of the block (10_state.md R20), the reasons a step could stop, and the state
after `RESET` (10_state.md R38, 70_reset_and_hazards.md R260). Beside the spec's tuple the state carries
the construction parameters, the operations still to come, the answers given and one ghost flag; each of
these is the model's own and has a log entry. -/

namespace Sys2Proof.Machine

/-- Why a step could stop with a fault: there is no reason. "No operation raises an exception, returns an
error, sets an error status or refuses an input" (60_exceptions.md R230), so the type has no constructor
(log entry 11, safe). -/
inductive Fault where
deriving DecidableEq, Repr

/-- Why a step could be refused. -/
inductive Refusal where
  /-- An arm of `exec` whose instruction has no meaning yet. Raised by no arm of this model; it would be
  safe, since it only stops the machine. -/
  | notModelled (mnemonic : String)
deriving DecidableEq, Repr

/-- A pixel `(r, g, b)` of three 8-bit channels (00_scope.md R7, R11). -/
structure Pixel where
  r : Byte
  g : Byte
  b : Byte
deriving DecidableEq, Repr

/-- `BLACK = (0, 0, 0)` (R11), the reset contents of every cell (R31). -/
def Pixel.black : Pixel := ⟨0#8, 0#8, 0#8⟩

/-- One axis of the addressing window (R25, R26): from `start` up to, not including, `stop` (the spec's
`end`). Any pair of values can be held. -/
structure Window where
  start : Word
  stop  : Word
deriving DecidableEq, Repr

/-- The four orientation flags (R28), in the order of the parameter bits 7, 6, 5, 4. -/
structure Orientation where
  mirrorY  : Bool
  mirrorX  : Bool
  axisSwap : Bool
  scanSwap : Bool
deriving DecidableEq, Repr

/-- The pixel grid `fb` (R31, R60): cell index and pixel, indices strictly rising, no cell equal to
`BLACK`, which is what an unlisted cell holds (log entry 8). -/
abbrev Framebuffer := List (Nat × Pixel)

/-- What `SNAPSHOT` returns (41_framebuffer.md R131). -/
structure Snapshot where
  width          : Nat
  height         : Nat
  pixels         : List Pixel
  displayEnabled : Bool
  inverted       : Bool
deriving DecidableEq, Repr

/-- What an operation returns to the agent that issued it: the level a get operation reads (R142), or a
snapshot (R131). -/
inductive Reply where
  | chipSelect (l : Level)
  | dataSelect (l : Level)
  | snapshot (v : Snapshot)
deriving DecidableEq, Repr

/-- The state. The fields from `chipSelect` to `fb` are the tuple of R20; the others are the model's own. -/
structure State where
  /-- The construction parameters (R5, R6); no operation changes them (log entry 1). -/
  device         : Device
  /-- `chip_select` (R21). -/
  chipSelect     : Level
  /-- `data_select` (R22). -/
  dataSelect     : Level
  /-- `cmd`, the current command (R23). -/
  cmd            : Byte
  /-- `pbuf`, the parameter buffer, oldest byte first (R24). -/
  pbuf           : List Byte
  /-- `x_window` (R25). -/
  xWindow        : Window
  /-- `y_window` (R26). -/
  yWindow        : Window
  /-- The cursor column `x` (R27). -/
  x              : Word
  /-- The cursor row `y` (R27). -/
  y              : Word
  /-- `mirror_y`, `mirror_x`, `axis_swap`, `scan_swap` (R28). -/
  orientation    : Orientation
  /-- `display_enabled` (R29). -/
  displayEnabled : Bool
  /-- `inverted` (R30). -/
  inverted       : Bool
  /-- `fb` (R31). -/
  fb             : Framebuffer
  /-- Ghost: a framebuffer write has been dropped since `RESET` (93_implementation_defined.md U1; log
  entry 6). No rule reads it. -/
  oobSeen        : Bool
  /-- The operations the host and the renderer have still to issue, the next one first (log entry 2). -/
  ops            : List HostOp
  /-- What the operations have returned, oldest first (log entry 3). No rule reads it. -/
  replies        : List Reply
deriving DecidableEq, Repr

/-- `RESET` of the device `d` (R38, R260): the construction of an instance. -/
def State.resetFor (d : Device) : State where
  device         := d
  chipSelect     := .high
  dataSelect     := .high
  cmd            := 0x00#8
  pbuf           := []
  xWindow        := ⟨0#16, BitVec.ofNat 16 d.width⟩
  yWindow        := ⟨0#16, BitVec.ofNat 16 d.height⟩
  x              := 0#16
  y              := 0#16
  orientation    := ⟨false, false, false, false⟩
  displayEnabled := true
  inverted       := false
  fb             := []
  oobSeen        := false
  ops            := []
  replies        := []

/-- The machine right after `RESET`, for a device about which only the bounds of R5 are known. -/
def State.reset : State := State.resetFor Config.device

end Sys2Proof.Machine
end

