-- ==== Sys2Proof/Machine/Operands.lean ====
section
/-! DEFINITION. How operands are formed from bytes and bits (30_encoding.md R93 to R97, R100 to R103): the
big-endian pair, the window group, the bit fields, the access-control byte, and the pixel codec
(40_pixel_codec.md R120 to R123). -/

namespace Sys2Proof.Machine

/-- `{hi, lo} = hi*256 + lo` (00_scope.md R11): big-endian assembly, the one place byte order is decided
(20_memory.md R64, R65). -/
def joinBytes (hi lo : Byte) : Word := hi ++ lo

/-- The high byte of a word, `w[15:8]`. -/
def highByte (w : Word) : Byte := w.extractLsb' 8 8

/-- The low byte of a word, `w[7:0]`. -/
def lowByte (w : Word) : Byte := w.extractLsb' 0 8

/-- The newest byte of the parameter buffer, what `pbuf.pop()` returns (R12). On an empty buffer, where no
rule pops, it is 0 (log entry 7). -/
def newest (p : List Byte) : Byte := p.getLastD 0#8

/-- The window of a completed group (R100): `p3` is popped first, then `p2`, then `p1`;
`start = {p1, p2}`, `end = {p3, b}`. -/
def windowOf (p : List Byte) (b : Byte) : Window :=
  let p3 := newest p
  let p2 := newest p.dropLast
  let p1 := newest p.dropLast.dropLast
  ⟨joinBytes p1 p2, joinBytes p3 b⟩

/-- The flags of an access-control byte (R94, R102): bits 7, 6, 5, 4; the low nibble is ignored. -/
def orientationOf (m : Byte) : Orientation where
  mirrorY  := m.getLsbD 7
  mirrorX  := m.getLsbD 6
  axisSwap := m.getLsbD 5
  scanSwap := m.getLsbD 4

/-- `w[lo+len-1:lo]` widened with zeros to 8 bits (R11). -/
def field8 (w : Word) (lo len : Nat) : Byte := (w.extractLsb' lo len).setWidth 8

/-- `trunc_8(w[lo+len-1:lo] << 3)`: the shift is exact in 16 bits, then the low 8 bits are kept (R103). -/
def scaled8 (w : Word) (lo len : Nat) : Byte := (((w.extractLsb' lo len).setWidth 16) <<< 3).setWidth 8

/-- `DECODE_A(w)` (R96, R120): fields 12:9, 8:4 and 3:0, unscaled. -/
def decodeA (w : Word) : Pixel := ⟨field8 w 9 4, field8 w 4 5, field8 w 0 4⟩

/-- `DECODE_B(w)` (R97, R121): fields 15:11, 10:5 and 4:0, each shifted left by 3 and truncated to 8
bits (D4). -/
def decodeB (w : Word) : Pixel := ⟨scaled8 w 11 5, scaled8 w 5 6, scaled8 w 0 5⟩

/-- `DECODE(w)` (R122): the codec the device was built with. -/
def decodePixel (l : PixelLayout) (w : Word) : Pixel :=
  match l with
  | .A => decodeA w
  | .B => decodeB w

end Sys2Proof.Machine
end

