-- ==== Sys2Proof/Machine/Flags.lean ====
section
/-! DEFINITION. The flag writes: `inverted`, `display_enabled` (41_framebuffer.md R132) and the four
orientation flags (47_access_control.md R206). There are no computed flags: no carry, zero or overflow
exists on this hardware (46_memory_write.md R197). -/

namespace Sys2Proof.Machine

/-- `inverted <- v` (R132). -/
def State.setInverted (v : Bool) (s : State) : State := { s with inverted := v }

/-- `display_enabled <- v` (R132). -/
def State.setDisplayEnabled (v : Bool) (s : State) : State := { s with displayEnabled := v }

/-- All four orientation flags in one step, each from its own bit (R206). -/
def State.setOrientation (m : Byte) (s : State) : State := { s with orientation := orientationOf m }

end Sys2Proof.Machine
end

