-- ==== Sys2Proof/Machine/Framebuffer.lean ====
section
/-! DEFINITION. The framebuffer as a memory of cells (20_memory.md R60 to R63, R73; 41_framebuffer.md R130,
R131): the read port, the write port, the bounds gate, the canonical form. -/

namespace Sys2Proof.Machine

/-- `MemRead(idx, 1)` (00_scope.md R12): the pixel in cell `idx`. An unlisted cell is `BLACK` (R31). -/
def Framebuffer.read : Framebuffer → Nat → Pixel
  | [], _ => Pixel.black
  | (j, q) :: rest, idx => if j = idx then q else Framebuffer.read rest idx

/-- A cell before a list of later cells, left out where it holds what an unlisted cell reads as. -/
def Framebuffer.cons (idx : Nat) (p : Pixel) (rest : Framebuffer) : Framebuffer :=
  if p = Pixel.black then rest else (idx, p) :: rest

/-- `MemWrite(idx, 1, p)` (R12): the whole cell is replaced, every other cell keeps its pixel. -/
def Framebuffer.write : Framebuffer → Nat → Pixel → Framebuffer
  | [], idx, p => Framebuffer.cons idx p []
  | (j, q) :: rest, idx, p =>
    if idx < j then Framebuffer.cons idx p ((j, q) :: rest)
    else if idx = j then Framebuffer.cons idx p rest
    else (j, q) :: Framebuffer.write rest idx p

/-- The canonical form: indices strictly rising and no listed cell black, so equal grids are equal lists. -/
abbrev Framebuffer.wf (f : Framebuffer) : Prop :=
  f.Pairwise (fun a b => a.1 < b.1) ∧ ∀ c ∈ f, c.2 ≠ Pixel.black

/-- Every listed cell is one of the `n` cells of the grid (R60, R73). -/
abbrev Framebuffer.within (n : Nat) (f : Framebuffer) : Prop := ∀ c ∈ f, c.1 < n

/-- The number of cells, `WIDTH*HEIGHT` (R60). -/
def cellCount (d : Device) : Nat := d.width * d.height

/-- The linear index of the point `(x, y)`: `y*WIDTH + x`, in unbounded naturals (R61). -/
def cellIndex (d : Device) (x y : Word) : Nat := y.toNat * d.width + x.toNat

/-- The bounds gate of R130: each coordinate is compared on its own, never the linear index. -/
def inGrid (d : Device) (x y : Word) : Bool := decide (x.toNat < d.width) && decide (y.toNat < d.height)

/-- The grid after `FB_SET((x, y), p)` (R130): one cell written, or nothing when the gate drops the
write. -/
def Framebuffer.set (d : Device) (x y : Word) (p : Pixel) (f : Framebuffer) : Framebuffer :=
  if inGrid d x y then f.write (cellIndex d x y) p else f

/-- `FB_SET((x, y), p)` on the state (R130). The ghost `oobSeen` notes a dropped write
(93_implementation_defined.md U1). -/
def State.fbSet (x y : Word) (p : Pixel) (s : State) : State :=
  { s with
    fb := s.fb.set s.device x y p
    oobSeen := s.oobSeen || !inGrid s.device x y }

/-- What `SNAPSHOT` reads (R131): the dimensions, every cell in index order, and the two flags, as they
are. -/
def State.view (s : State) : Snapshot where
  width          := s.device.width
  height         := s.device.height
  pixels         := (List.range (cellCount s.device)).map s.fb.read
  displayEnabled := s.displayEnabled
  inverted       := s.inverted

end Sys2Proof.Machine
end

