-- ==== Sys2Proof/Machine/Ops.lean ====
section
/-! DEFINITION. The named operations the meanings share: the signal latches (42_signal_lines.md), the
command latch and the parameter buffer (43_byte_dispatch.md), the window registers, the cursor and the
pixel commit (46_memory_write.md), the replies. There is no exception to take and none to return from
(60_exceptions.md R230, R234, R235), so no operation for either. -/

namespace Sys2Proof.Machine

/-- `CS_SET(level)` (R140): acts by level; nothing else changes. -/
def State.csSet (l : Level) (s : State) : State := { s with chipSelect := l }

/-- `DS_SET(level)` (R141): takes effect whatever `chip_select` holds. -/
def State.dsSet (l : Level) (s : State) : State := { s with dataSelect := l }

/-- An operation's answer, given to the agent that issued it. -/
def State.reply (r : Reply) (s : State) : State := { s with replies := s.replies ++ [r] }

/-- The command latch (R152): `cmd <- b ; pbuf.clear()`. -/
def State.latchCommand (b : Byte) (s : State) : State := { s with cmd := b, pbuf := [] }

/-- `pbuf.push(b)` (R24). -/
def State.pushParam (b : Byte) (s : State) : State := { s with pbuf := s.pbuf ++ [b] }

/-- The effect of `pbuf.pop()` on the buffer (R24); the byte it returns is `newest s.pbuf`. -/
def State.popParam (s : State) : State := { s with pbuf := s.pbuf.dropLast }

/-- A data byte that no rule uses: no effect (48_unrecognised.md R216). -/
def State.discardData (_b : Byte) (s : State) : State := s

/-- `x_window <- w` (R183). -/
def State.setXWindow (w : Window) (s : State) : State := { s with xWindow := w }

/-- `y_window <- w` (R184). -/
def State.setYWindow (w : Window) (s : State) : State := { s with yWindow := w }

/-- `x <- px ; y <- py`. -/
def State.setCursor (px py : Word) (s : State) : State := { s with x := px, y := py }

/-- One axis of the advance has reached the end of its window: equality, tested after the increment
(R193). -/
def reachesEnd (w : Window) (v : Word) : Bool := decide (v + 1#16 = w.stop)

/-- The column after one commit (R193); `+16` is addition of 16-bit words (D1). -/
def nextColumn (xw : Window) (x : Word) : Word :=
  if reachesEnd xw x then xw.start else x + 1#16

/-- The row after one commit (R193): it moves only when the column wraps. -/
def nextRow (xw yw : Window) (x y : Word) : Word :=
  if reachesEnd xw x then (if reachesEnd yw y then yw.start else y + 1#16) else y

/-- The cursor advance (R193), once after every pixel commit. -/
def State.advanceCursor (s : State) : State :=
  s.setCursor (nextColumn s.xWindow s.x) (nextRow s.xWindow s.yWindow s.x s.y)

/-- The pixel commit of the word `w` (R192): decode, write at the cursor as it is, then advance. -/
def State.commitPixel (w : Word) (s : State) : State :=
  (s.fbSet s.x s.y (decodePixel s.device.layout w)).advanceCursor

end Sys2Proof.Machine
end

