-- ==== Sys2Proof/Machine/AccessControl.lean ====
section
/-! DEFINITION. MADCTL (47_access_control.md R205 to R208): every data byte sets all four orientation flags
(R207); no rule reads them (R208). -/

namespace Sys2Proof.Machine

/-- MADCTL: command byte R205, data byte R206, R207. -/
def execMadctl (role : ByteRole) (s : State) : Host.Outcome State Fault Refusal :=
  match role with
  | .command => .next (s.latchCommand 0x36#8)
  | .data b  => .next (s.setOrientation b)

end Sys2Proof.Machine
end

