-- ==== Sys2Proof/Machine/DisplayControl.lean ====
section
/-! DEFINITION. INVOFF, INVON, DISPOFF, DISPON (44_display_control.md R165 to R169). Each acts at its command
byte; its data bytes are discarded (48_unrecognised.md R216). -/

namespace Sys2Proof.Machine

/-- INVOFF (R165). -/
def execInvoff (role : ByteRole) (s : State) : Host.Outcome State Fault Refusal :=
  match role with
  | .command => .next ((s.latchCommand 0x20#8).setInverted false)
  | .data b  => .next (s.discardData b)

/-- INVON (R166). -/
def execInvon (role : ByteRole) (s : State) : Host.Outcome State Fault Refusal :=
  match role with
  | .command => .next ((s.latchCommand 0x21#8).setInverted true)
  | .data b  => .next (s.discardData b)

/-- DISPOFF (R167). -/
def execDispoff (role : ByteRole) (s : State) : Host.Outcome State Fault Refusal :=
  match role with
  | .command => .next ((s.latchCommand 0x28#8).setDisplayEnabled false)
  | .data b  => .next (s.discardData b)

/-- DISPON (R168). -/
def execDispon (role : ByteRole) (s : State) : Host.Outcome State Fault Refusal :=
  match role with
  | .command => .next ((s.latchCommand 0x29#8).setDisplayEnabled true)
  | .data b  => .next (s.discardData b)

end Sys2Proof.Machine
end

