-- ==== Sys2Proof/Machine/MemoryWrite.lean ====
section
/-! DEFINITION. RAMWR (46_memory_write.md R190 to R197): the command byte loads the cursor with the window
start; the first byte of a pair is held, the second commits a pixel. -/

namespace Sys2Proof.Machine

/-- RAMWR: command byte R190, first byte of a pair R191, second byte R192 and R193. -/
def execRamwr (role : ByteRole) (s : State) : Host.Outcome State Fault Refusal :=
  match role with
  | .command => .next ((s.latchCommand 0x2C#8).setCursor s.xWindow.start s.yWindow.start)
  | .data b  =>
    if s.pbuf.length = 0 then .next (s.pushParam b)
    else .next (s.popParam.commitPixel (joinBytes (newest s.pbuf) b))

end Sys2Proof.Machine
end

