-- ==== Sys2Proof/Machine/Unrecognised.lean ====
section
/-! DEFINITION. OTHER, the 248 remaining opcodes (48_unrecognised.md R215 to R218): latched, no further
effect; their data bytes are discarded. -/

namespace Sys2Proof.Machine

/-- OTHER: command byte R215, data byte R216. -/
def execOther (v : Byte) (role : ByteRole) (s : State) : Host.Outcome State Fault Refusal :=
  match role with
  | .command => .next (s.latchCommand v)
  | .data b  => .next (s.discardData b)

end Sys2Proof.Machine
end

