-- ==== Sys2Proof/Machine/WindowSet.lean ====
section
/-! DEFINITION. CASET and PASET (45_window_set.md R180 to R187): three data bytes accumulate, the fourth
commits a window and leaves the buffer empty, so that a fifth starts a new group (R185). -/

namespace Sys2Proof.Machine

/-- The three pops of a window commit (R183). -/
def State.popGroup (s : State) : State := s.popParam.popParam.popParam

/-- CASET: command byte R180, data bytes R182, R183, R185. -/
def execCaset (role : ByteRole) (s : State) : Host.Outcome State Fault Refusal :=
  match role with
  | .command => .next (s.latchCommand 0x2A#8)
  | .data b  =>
    if s.pbuf.length < 3 then .next (s.pushParam b)
    else .next (s.popGroup.setXWindow (windowOf s.pbuf b))

/-- PASET: command byte R181, data bytes R182, R184, R185. -/
def execPaset (role : ByteRole) (s : State) : Host.Outcome State Fault Refusal :=
  match role with
  | .command => .next (s.latchCommand 0x2B#8)
  | .data b  =>
    if s.pbuf.length < 3 then .next (s.pushParam b)
    else .next (s.popGroup.setYWindow (windowOf s.pbuf b))

end Sys2Proof.Machine
end

