-- ==== Sys2Proof/Machine/Dispatch.lean ====
section
/-! DEFINITION. One arm per row of spec/opcode_table.json: the effect of one received byte (43_byte_dispatch.md
R153, R154). -/

namespace Sys2Proof.Machine

def exec (i : Instr) (s : State) : Host.Outcome State Fault Refusal :=
  match i with
  | .invoff role => Sys2Proof.Machine.execInvoff role s
  | .invon role => Sys2Proof.Machine.execInvon role s
  | .dispoff role => Sys2Proof.Machine.execDispoff role s
  | .dispon role => Sys2Proof.Machine.execDispon role s
  | .caset role => Sys2Proof.Machine.execCaset role s
  | .paset role => Sys2Proof.Machine.execPaset role s
  | .ramwr role => Sys2Proof.Machine.execRamwr role s
  | .madctl role => Sys2Proof.Machine.execMadctl role s
  | .other v role => Sys2Proof.Machine.execOther v role s

end Sys2Proof.Machine
end

