-- ==== Sys2Proof/Machine/HostOps.lean ====
section
/-! DEFINITION. What each operation of the host and the renderer does (00_scope.md R9), and the byte sink
`WRITE_BYTE` with the chip-select gate (43_byte_dispatch.md R150, R151). -/

namespace Sys2Proof.Machine

/-- The triple that `WRITE_BYTE(b)` presents: `b` with the two latches as they stand (R10, R90). -/
def State.presented (b : Byte) (s : State) : Triple := ⟨s.chipSelect, s.dataSelect, b⟩

/-- `WRITE_BYTE(b)` (R150): a byte presented while deselected is ignored entirely (R151); a received byte
is the instruction it decodes to. -/
def writeByte (b : Byte) (s : State) : Host.Outcome State Fault Refusal :=
  match decode s.cmd (s.presented b) with
  | .instr i               => exec i s
  | .rejected .notReceived => .next s

/-- One operation of the host or the renderer, run to completion (R71). -/
def perform (op : HostOp) (s : State) : Host.Outcome State Fault Refusal :=
  match op with
  | .csSet l     => .next (s.csSet l)
  | .dsSet l     => .next (s.dsSet l)
  | .csGet       => .next (s.reply (.chipSelect s.chipSelect))
  | .dsGet       => .next (s.reply (.dataSelect s.dataSelect))
  | .writeByte b => writeByte b s
  | .snapshot    => .next (s.reply (.snapshot s.view))

/-- The next operation is taken from those still to come. -/
def State.takeOp (rest : List HostOp) (s : State) : State := { s with ops := rest }

/-- The next operation is WRITE_BYTE of the word's low byte, presented as a received command byte (R90);
the operations already pending follow it (log entry 2). -/
def State.presentCommand (w : Nat) (s : State) : State :=
  { s with chipSelect := .low, dataSelect := .low, ops := .writeByte (BitVec.ofNat 8 w) :: s.ops }

end Sys2Proof.Machine
end

