-- ==== Sys2Proof/Machine/Step.lean ====
section
/-! DEFINITION. One step of the machine: the next operation of the host or the renderer, applied whole
(20_memory.md R71, R75). With no operation to come the block waits and nothing changes
(70_reset_and_hazards.md R262, R276). -/

namespace Sys2Proof.Machine

/-- One step (R9, R71): take the next operation and perform it. -/
def step (s : State) : Host.Outcome State Fault Refusal :=
  match s.ops with
  | []         => .next s
  | op :: rest => perform op (s.takeOp rest)

/-- The state in which the very next step runs the instruction whose table word is `w`: the host selects
the device, tags the next byte as a command and presents it (log entry 2). -/
def State.withFetchWord (s : State) (_nbits w : Nat) : State := s.presentCommand w

end Sys2Proof.Machine
end

