-- ==== Sys2Proof/Machine/Stream.lean ====
section
/-! DEFINITION. The stream notation's pseudo-instructions as lists of host operations (30_encoding.md R107,
R108). They are no part of the hardware: statements over many operations are written with them. -/

namespace Sys2Proof.Machine

/-- `SELECT` (R108). -/
def selectOps : List HostOp := [.csSet .low]

/-- `DESELECT` (R108). -/
def deselectOps : List HostOp := [.csSet .high]

/-- `CMD b` (R108). -/
def cmdOps (b : Byte) : List HostOp := [.dsSet .low, .writeByte b]

/-- `DAT b` (R108). -/
def datOps (b : Byte) : List HostOp := [.dsSet .high, .writeByte b]

/-- Data bytes one after the other. -/
def dataOps (bs : List Byte) : List HostOp := bs.flatMap datOps

/-- `INVOFF`, `INVON`, `DISPOFF`, `DISPON` (R108). -/
def invoffOps : List HostOp := cmdOps 0x20#8
def invonOps : List HostOp := cmdOps 0x21#8
def dispoffOps : List HostOp := cmdOps 0x28#8
def disponOps : List HostOp := cmdOps 0x29#8

/-- The four data bytes of a window group (R93). -/
def windowBytes (w : Window) : List Byte :=
  [highByte w.start, lowByte w.start, highByte w.stop, lowByte w.stop]

/-- `CASET s, e` (R108). -/
def casetOps (w : Window) : List HostOp := cmdOps 0x2A#8 ++ dataOps (windowBytes w)

/-- `PASET s, e` (R108). -/
def pasetOps (w : Window) : List HostOp := cmdOps 0x2B#8 ++ dataOps (windowBytes w)

/-- `RAMWR` (R108). -/
def ramwrOps : List HostOp := cmdOps 0x2C#8

/-- `PIX w` (R108). -/
def pixOps (w : Word) : List HostOp := dataOps [highByte w, lowByte w]

/-- `PIX` of each word in turn. -/
def pixelsOps (ws : List Word) : List HostOp := ws.flatMap pixOps

/-- `MADCTL v` (R108). -/
def madctlOps (v : Byte) : List HostOp := cmdOps 0x36#8 ++ datOps v

end Sys2Proof.Machine
end

