-- ==== Sys2Proof/Safety.lean ====
section
/-! DEFINITION. The terms in which claims speak of runs: the invariant of the reachable states (10_state.md
R35), runs of several steps, a dropped write, the window premise of 93_implementation_defined.md U1, and
the cursor law's counts (46_memory_write.md R195). -/

namespace Sys2Proof.Machine

/-- `n` steps, stopping at the first stop. -/
def run : Nat → State → Host.Outcome State Fault Refusal
  | 0, s => .next s
  | n + 1, s =>
    match step s with
    | .next t    => run n t
    | .fault r   => .fault r
    | .refused r => .refused r

/-- The next operation presents a byte that the device receives as the instruction `i`. -/
abbrev State.Receives (s : State) (i : Instr) : Prop :=
  ∃ b rest, s.ops = .writeByte b :: rest ∧ decode s.cmd (s.presented b) = .instr i

/-- An operation that only reads: `CS_GET`, `DS_GET`, `SNAPSHOT`. -/
def isRead : HostOp → Bool
  | .csGet | .dsGet | .snapshot => true
  | .csSet _ | .dsSet _ | .writeByte _ => false

/-- R35 (a): how full the parameter buffer can be under the current command. -/
abbrev State.BufferInv (s : State) : Prop :=
  s.pbuf.length ≤ 3 ∧
  (s.cmd = 0x2C#8 → s.pbuf.length ≤ 1) ∧
  (s.cmd ≠ 0x2A#8 → s.cmd ≠ 0x2B#8 → s.cmd ≠ 0x2C#8 → s.pbuf = [])

/-- R35 (c): the channel values a layout can store. -/
abbrev Pixel.FitsLayout (l : PixelLayout) (p : Pixel) : Prop :=
  (l = .A → p.r.toNat ≤ 15 ∧ p.g.toNat ≤ 31 ∧ p.b.toNat ≤ 15) ∧
  (l = .B → p.r.toNat % 8 = 0 ∧ p.g.toNat % 8 = 0 ∧ p.b.toNat % 8 = 0)

/-- R35 (b) and (c), and the canonical form of the cell list (log entry 8). -/
abbrev State.GridInv (s : State) : Prop :=
  s.fb.wf ∧ s.fb.within (cellCount s.device) ∧ ∀ c ∈ s.fb, c.2.FitsLayout s.device.layout

/-- The invariant of the reachable states: the parameter bounds of R5 and R35 (a) to (c). -/
abbrev State.Inv (s : State) : Prop := s.device.WellFormed ∧ s.BufferInv ∧ s.GridInv

/-- A run is safe against the original source when no framebuffer write was dropped in it (U1). -/
abbrev State.NoDrop (s : State) : Prop := s.oobSeen = false

/-- One axis' window lies inside `size` columns or rows: `start < end <= size` (R270, U1). -/
abbrev Window.Inside (w : Window) (size : Nat) : Prop :=
  w.start.toNat < w.stop.toNat ∧ w.stop.toNat ≤ size

/-- Both windows lie inside the framebuffer: the static premise of U1. -/
abbrev State.WindowsInside (s : State) : Prop :=
  s.xWindow.Inside s.device.width ∧ s.yWindow.Inside s.device.height

/-- A coordinate lies in its window. -/
abbrev Window.Holds (w : Window) (v : Word) : Prop := w.start.toNat ≤ v.toNat ∧ v.toNat < w.stop.toNat

/-- While pixels can be written, the windows lie inside the framebuffer and the cursor inside the
windows. -/
abbrev State.OnTarget (s : State) : Prop :=
  s.cmd = 0x2C#8 → s.WindowsInside ∧ s.xWindow.Holds s.x ∧ s.yWindow.Holds s.y

/-- The next operation is a RAMWR command byte that the device receives. -/
abbrev State.RamwrNext (s : State) : Prop :=
  s.chipSelect = .low ∧ s.dataSelect = .low ∧ s.ops.head? = some (.writeByte 0x2C#8)

/-- `nx` and `ny` of R195: `((end - start - 1) mod 2^16) + 1`. -/
def Window.period (w : Window) : Nat := (w.stop - w.start - 1#16).toNat + 1

/-- The column of the `k`-th commit after a RAMWR command byte (R195). -/
def commitColumn (xw : Window) (k : Nat) : Word := xw.start + BitVec.ofNat 16 (k % xw.period)

/-- The row of the `k`-th commit after a RAMWR command byte (R195). -/
def commitRow (xw yw : Window) (k : Nat) : Word :=
  yw.start + BitVec.ofNat 16 (k / xw.period % yw.period)

/-- The grid after the words `ws` are committed one after the other from the window start on (R192,
R195). -/
def gridAfter (d : Device) (xw yw : Window) (f : Framebuffer) (ws : List Word) : Framebuffer :=
  ws.zipIdx.foldl
    (fun g wk => g.set d (commitColumn xw wk.2) (commitRow xw yw wk.2) (decodePixel d.layout wk.1)) f

/-- One of the first `n` commits after a RAMWR command byte falls outside the grid (R195 (c) to (e)). -/
def someDrop (d : Device) (xw yw : Window) (n : Nat) : Bool :=
  (List.range n).any fun k => !inGrid d (commitColumn xw k) (commitRow xw yw k)

end Sys2Proof.Machine
end

