-- ==== Sys2Proof/Certificates/Slice0/Obligations.lean ====
section
/-! DEFINITION. The statements for the provers, each from the rules of spec/ named in its docstring. Where a
statement rests on a choice the spec marks as its own (92_eei_decisions.md D<n>) or on a log entry of this
model, its docstring says so. -/

open Sys2Proof Sys2Proof.Machine

/-! ## Encoding and decoding -/

/-- 30_encoding.md sections 1 and 4: words written out bit by bit from the table decode to their row, as a
command byte and, under the row's opcode, as the carrier of a data byte; an OTHER opcode too. -/
def Obligations.TableWordsDecodeToTheirRows : Prop :=
  (∀ cmd : Byte,
    decode cmd ⟨.low, .low, 0b00100000#8⟩ = .instr (.invoff .command) ∧
    decode cmd ⟨.low, .low, 0b00101001#8⟩ = .instr (.dispon .command) ∧
    decode cmd ⟨.low, .low, 0b00101010#8⟩ = .instr (.caset .command) ∧
    decode cmd ⟨.low, .low, 0b00101100#8⟩ = .instr (.ramwr .command) ∧
    decode cmd ⟨.low, .low, 0b00110110#8⟩ = .instr (.madctl .command) ∧
    decode cmd ⟨.low, .low, 0b00000001#8⟩ = .instr (.other 0x01#8 .command)) ∧
  (∀ b : Byte,
    decode 0b00101011#8 ⟨.low, .high, b⟩ = .instr (.paset (.data b)) ∧
    decode 0b00101100#8 ⟨.low, .high, b⟩ = .instr (.ramwr (.data b)) ∧
    decode 0b00110110#8 ⟨.low, .high, b⟩ = .instr (.madctl (.data b)) ∧
    decode 0b00100001#8 ⟨.low, .high, b⟩ = .instr (.invon (.data b)))

/-- 30_encoding.md section 4: each of the 256 command bytes names the row of the opcode map, whatever the
current command; the 248 bytes outside the eight are OTHER, none is rejected. -/
def Obligations.OpcodeMapCoversEveryCommandByte : Prop :=
  ∀ cmd b : Byte,
    ∃ i, decode cmd ⟨.low, .low, b⟩ = .instr i ∧ i.role = .command ∧ i.opcode = b ∧
      ((∃ v r, i = .other v r) ↔
        b ≠ 0x20#8 ∧ b ≠ 0x21#8 ∧ b ≠ 0x28#8 ∧ b ≠ 0x29#8 ∧
        b ≠ 0x2A#8 ∧ b ≠ 0x2B#8 ∧ b ≠ 0x2C#8 ∧ b ≠ 0x36#8)

/-- R90: the classification of a presented octet, `chip_select` first, and what the decoder makes of each
class: a deselected byte is not received, a command byte is an opcode, a data byte belongs to `cmd`. -/
def Obligations.PresentedBytesFallIntoThreeClasses : Prop :=
  ∀ (cmd b : Byte) (ds : Level),
    Triple.classify ⟨.high, ds, b⟩ = .notReceived ∧
    decode cmd ⟨.high, ds, b⟩ = .rejected .notReceived ∧
    Triple.classify ⟨.low, .low, b⟩ = .command b ∧
    (∃ i, decode cmd ⟨.low, .low, b⟩ = .instr i ∧ i.role = .command ∧ i.opcode = b) ∧
    Triple.classify ⟨.low, .high, b⟩ = .data b ∧
    (∃ i, decode cmd ⟨.low, .high, b⟩ = .instr i ∧ i.role = .data b ∧ i.opcode = cmd)

/-- 30_encoding.md sections 1 to 5: decoding the encoding of a well-formed instruction gives it back, with
every operand at every value; a data byte is read under its own row's opcode. -/
def Obligations.EncodeThenDecodeGivesTheInstruction : Prop :=
  ∀ (i : Instr) (cmd : Byte), i.wellFormed = true →
    ((∃ b, i.role = .data b) → cmd = i.opcode) →
    decode cmd (encode i) = .instr i

/-- 30_encoding.md sections 1 to 5: what the decoder reads is well-formed, stands in the row of the opcode
in force, and encodes to the triple it was read from; so no two instructions share a triple. -/
def Obligations.DecodeThenEncodeGivesTheTriple : Prop :=
  ∀ (cmd : Byte) (t : Triple) (i : Instr), decode cmd t = .instr i →
    encode i = t ∧ i.wellFormed = true ∧ (∀ b, i.role = .data b → i.opcode = cmd)

/-! ## One step: the host's operations and the gate -/

/-- 43_byte_dispatch.md section R150: the byte presented to a selected device is run as the instruction it
decodes to, in one step, on the state from which only the operation has been taken. -/
def Obligations.StepRunsTheDecodedInstruction : Prop :=
  ∀ (s : State) (b : Byte) (rest : List HostOp) (i : Instr),
    s.ops = .writeByte b :: rest →
    decode s.cmd ⟨s.chipSelect, s.dataSelect, b⟩ = .instr i →
    step s = exec i { s with ops := rest }

/-- Log entries 2 and 10: a word of the opcode table, placed as the next operation by `withFetchWord`, is run
by the very next step as the command byte it decodes to, on a selected device; the operations that were
pending follow it. -/
def Obligations.FetchWordIsRunByTheNextStep : Prop :=
  ∀ (s : State) (b : Byte),
    ∃ i, decodeTableWord 8 b.toNat = some i ∧ i.role = .command ∧ i.opcode = b ∧
      step (s.withFetchWord 8 b.toNat) = exec i { s with chipSelect := .low, dataSelect := .low }

/-- R151: a byte presented while `chip_select` is `High` changes no element of the state. -/
def Obligations.DeselectedByteChangesNothing : Prop :=
  ∀ (s : State) (b : Byte) (rest : List HostOp),
    s.chipSelect = .high → s.ops = .writeByte b :: rest →
    step s = .next { s with ops := rest }

/-- R140: `CS_SET(level)` writes `chip_select` and nothing else, whatever is in progress. -/
def Obligations.CsSetWritesOnlyChipSelect : Prop :=
  ∀ (s : State) (l : Level) (rest : List HostOp), s.ops = .csSet l :: rest →
    step s = .next { s with chipSelect := l, ops := rest }

/-- R141: `DS_SET(level)` writes `data_select` and nothing else, whatever `chip_select` holds. -/
def Obligations.DsSetWritesOnlyDataSelect : Prop :=
  ∀ (s : State) (l : Level) (rest : List HostOp), s.ops = .dsSet l :: rest →
    step s = .next { s with dataSelect := l, ops := rest }

/-- R142: `CS_GET` and `DS_GET` return the latch's value and change nothing. -/
def Obligations.LatchReadsReturnTheLatches : Prop :=
  ∀ (s : State) (rest : List HostOp),
    (s.ops = .csGet :: rest →
      step s = .next { s with ops := rest, replies := s.replies ++ [.chipSelect s.chipSelect] }) ∧
    (s.ops = .dsGet :: rest →
      step s = .next { s with ops := rest, replies := s.replies ++ [.dataSelect s.dataSelect] })

/-- R131: `SNAPSHOT` returns the dimensions, the stored pixel of every cell in index order and the two
flags, as they are, and changes nothing. -/
def Obligations.SnapshotReturnsTheStoredGrid : Prop :=
  ∀ (s : State) (rest : List HostOp), s.ops = .snapshot :: rest →
    ∃ v : Snapshot,
      step s = .next { s with ops := rest, replies := s.replies ++ [.snapshot v] } ∧
      v.width = s.device.width ∧ v.height = s.device.height ∧
      v.pixels.length = s.device.width * s.device.height ∧
      (∀ idx, idx < s.device.width * s.device.height → v.pixels[idx]? = some (s.fb.read idx)) ∧
      v.displayEnabled = s.displayEnabled ∧ v.inverted = s.inverted

/-- 70_reset_and_hazards.md sections 1 and 5 (log entry 2): with no operation to come the block waits; the
state does not change. -/
def Obligations.NothingHappensBetweenOperations : Prop :=
  ∀ (s : State), s.ops = [] → ∀ n, run n s = .next s

/-! ## The command bytes -/

/-- R165: INVOFF. -/
def Obligations.InvoffClearsInverted : Prop :=
  ∀ s : State,
    exec (.invoff .command) s = .next { s with cmd := 0x20#8, pbuf := [], inverted := false }

/-- R166: INVON. -/
def Obligations.InvonSetsInverted : Prop :=
  ∀ s : State,
    exec (.invon .command) s = .next { s with cmd := 0x21#8, pbuf := [], inverted := true }

/-- R167: DISPOFF. -/
def Obligations.DispoffClearsDisplayEnabled : Prop :=
  ∀ s : State,
    exec (.dispoff .command) s = .next { s with cmd := 0x28#8, pbuf := [], displayEnabled := false }

/-- R168: DISPON. -/
def Obligations.DisponSetsDisplayEnabled : Prop :=
  ∀ s : State,
    exec (.dispon .command) s = .next { s with cmd := 0x29#8, pbuf := [], displayEnabled := true }

/-- R180, R181, R205: the command bytes of CASET, PASET and MADCTL latch and do nothing else. -/
def Obligations.CasetPasetMadctlCommandBytesOnlyLatch : Prop :=
  ∀ s : State,
    exec (.caset .command) s = .next { s with cmd := 0x2A#8, pbuf := [] } ∧
    exec (.paset .command) s = .next { s with cmd := 0x2B#8, pbuf := [] } ∧
    exec (.madctl .command) s = .next { s with cmd := 0x36#8, pbuf := [] }

/-- R190: the RAMWR command byte loads the cursor with the window starts, whatever they are. -/
def Obligations.RamwrCommandByteLoadsTheCursor : Prop :=
  ∀ s : State,
    exec (.ramwr .command) s =
      .next { s with cmd := 0x2C#8, pbuf := [], x := s.xWindow.start, y := s.yWindow.start }

/-- R215: an OTHER opcode is latched and has no other effect. -/
def Obligations.OtherOpcodeOnlyLatches : Prop :=
  ∀ (v : Byte) (s : State), (Instr.other v .command).wellFormed = true →
    exec (.other v .command) s = .next { s with cmd := v, pbuf := [] }

/-- R152: every command byte, recognised or not, becomes the current command and empties the buffer. -/
def Obligations.EveryCommandByteIsLatched : Prop :=
  ∀ (b : Byte) (rest : List HostOp) (s : State),
    s.chipSelect = .low → s.dataSelect = .low → s.ops = .writeByte b :: rest →
    ∃ t, step s = .next t ∧ t.cmd = b ∧ t.pbuf = []

/-- 20_memory.md section 3: a command byte discards an incomplete group without completing it: no window
and no cell changes, nor the cursor, except that RAMWR's own byte loads it. -/
def Obligations.CommandByteDiscardsAnIncompleteGroup : Prop :=
  ∀ (i : Instr) (s : State), i.role = .command →
    ∃ t, exec i s = .next t ∧ t.pbuf = [] ∧ t.xWindow = s.xWindow ∧ t.yWindow = s.yWindow ∧
      t.fb = s.fb ∧ t.oobSeen = s.oobSeen ∧ t.orientation = s.orientation ∧
      (i ≠ .ramwr .command → t.x = s.x ∧ t.y = s.y)

/-! ## The data bytes -/

/-- R182: the first three data bytes of a window group are buffered, nothing else happens. -/
def Obligations.FirstThreeWindowBytesAccumulate : Prop :=
  ∀ (b : Byte) (s : State), s.pbuf.length < 3 →
    exec (.caset (.data b)) s = .next { s with pbuf := s.pbuf ++ [b] } ∧
    exec (.paset (.data b)) s = .next { s with pbuf := s.pbuf ++ [b] }

/-- R183: the fourth CASET byte commits the column window, big-endian, and empties the buffer. -/
def Obligations.FourthCasetByteSetsTheColumnWindow : Prop :=
  ∀ (p1 p2 p3 b : Byte) (s : State), s.pbuf = [p1, p2, p3] →
    ∃ w : Window,
      w.start.toNat = p1.toNat * 256 + p2.toNat ∧ w.stop.toNat = p3.toNat * 256 + b.toNat ∧
      exec (.caset (.data b)) s = .next { s with pbuf := [], xWindow := w }

/-- R184: the fourth PASET byte commits the row window, big-endian, and empties the buffer. -/
def Obligations.FourthPasetByteSetsTheRowWindow : Prop :=
  ∀ (p1 p2 p3 b : Byte) (s : State), s.pbuf = [p1, p2, p3] →
    ∃ w : Window,
      w.start.toNat = p1.toNat * 256 + p2.toNat ∧ w.stop.toNat = p3.toNat * 256 + b.toNat ∧
      exec (.paset (.data b)) s = .next { s with pbuf := [], yWindow := w }

/-- R191: the first byte of a pair is held; no cell and no cursor changes. -/
def Obligations.FirstPixelByteIsHeld : Prop :=
  ∀ (b : Byte) (s : State), s.pbuf = [] →
    exec (.ramwr (.data b)) s = .next { s with pbuf := [b] }

/-- 46_memory_write.md section R192, 41_framebuffer.md section R130: the second byte of a pair stores the
decoded pixel in the cell of the cursor as it was, `y*WIDTH + x`, and in no other; with a coordinate
outside the grid it stores nothing (the spec's own decision D5). The registers the rule does not name are
unchanged. -/
def Obligations.PixelCommitWritesTheCursorCell : Prop :=
  ∀ (h b : Byte) (s : State), s.fb.wf → s.pbuf = [h] →
    ∃ (t : State) (w : Word), w.toNat = h.toNat * 256 + b.toNat ∧
      exec (.ramwr (.data b)) s = .next t ∧
      (s.x.toNat < s.device.width → s.y.toNat < s.device.height →
        t.fb.read (s.y.toNat * s.device.width + s.x.toNat) = decodePixel s.device.layout w ∧
        (∀ idx, idx ≠ s.y.toNat * s.device.width + s.x.toNat → t.fb.read idx = s.fb.read idx) ∧
        t.oobSeen = s.oobSeen) ∧
      (¬ (s.x.toNat < s.device.width ∧ s.y.toNat < s.device.height) →
        (∀ idx, t.fb.read idx = s.fb.read idx) ∧ t.oobSeen = true) ∧
      t = { s with pbuf := [], fb := t.fb, oobSeen := t.oobSeen, x := t.x, y := t.y }

/-- 46_memory_write.md section R193: one advance after a commit: the column wraps when it EQUALS the end
after the increment, and only then the row moves, by the same rule. The increments are modulo `2^16` (the
spec's own decision D1). -/
def Obligations.PixelCommitAdvancesTheCursor : Prop :=
  ∀ (h b : Byte) (s : State), s.pbuf = [h] →
    ∃ t, exec (.ramwr (.data b)) s = .next t ∧
      ((s.x.toNat + 1) % 65536 ≠ s.xWindow.stop.toNat →
        t.x.toNat = (s.x.toNat + 1) % 65536 ∧ t.y = s.y) ∧
      ((s.x.toNat + 1) % 65536 = s.xWindow.stop.toNat →
        t.x = s.xWindow.start ∧
        ((s.y.toNat + 1) % 65536 ≠ s.yWindow.stop.toNat → t.y.toNat = (s.y.toNat + 1) % 65536) ∧
        ((s.y.toNat + 1) % 65536 = s.yWindow.stop.toNat → t.y = s.yWindow.start))

/-- R206: a MADCTL data byte sets all four flags, each from its own bit; the low nibble is ignored. -/
def Obligations.MadctlByteSetsAllOrientationFlags : Prop :=
  ∀ (m : Byte) (s : State),
    exec (.madctl (.data m)) s = .next { s with
      orientation :=
        { mirrorY  := decide (m.toNat / 128 % 2 = 1)
          mirrorX  := decide (m.toNat / 64 % 2 = 1)
          axisSwap := decide (m.toNat / 32 % 2 = 1)
          scanSwap := decide (m.toNat / 16 % 2 = 1) } }

/-- R216: data bytes under a parameterless or an OTHER opcode have no effect at all. -/
def Obligations.UnusedDataBytesAreDiscarded : Prop :=
  ∀ (b : Byte) (s : State),
    exec (.invoff (.data b)) s = .next s ∧ exec (.invon (.data b)) s = .next s ∧
    exec (.dispoff (.data b)) s = .next s ∧ exec (.dispon (.data b)) s = .next s ∧
    (∀ v, (Instr.other v (.data b)).wellFormed = true → exec (.other v (.data b)) s = .next s)

/-! ## The pixel codec -/

/-- R120: layout A, as arithmetic on the word. -/
def Obligations.LayoutADecodesFourFiveFour : Prop :=
  ∀ w : Word,
    (decodePixel .A w).r.toNat = w.toNat / 512 % 16 ∧
    (decodePixel .A w).g.toNat = w.toNat / 16 % 32 ∧
    (decodePixel .A w).b.toNat = w.toNat % 16

/-- 40_pixel_codec.md section R121: layout B, each field times 8; green keeps the low 8 bits of its nine
(the spec's own decision D4). -/
def Obligations.LayoutBDecodesFieldsTimesEight : Prop :=
  ∀ w : Word,
    (decodePixel .B w).r.toNat = w.toNat / 2048 % 32 * 8 ∧
    (decodePixel .B w).g.toNat = w.toNat / 32 % 64 * 8 % 256 ∧
    (decodePixel .B w).b.toNat = w.toNat % 32 * 8

/-! ## Rules of the whole machine -/

/-- R230: no operation faults or is refused: every instruction in every state, and every step, gives a next
state; so does a run of any length. -/
def Obligations.NoOperationEverStops : Prop :=
  (∀ (i : Instr) (s : State), ∃ t, exec i s = .next t) ∧
  (∀ s : State, ∃ t, step s = .next t) ∧
  (∀ (n : Nat) (s : State), ∃ t, run n s = .next t)

/-- 10_state.md section 3 (cmd, pbuf): `cmd` changes only at a received command byte, to that byte; the
buffer changes only at a received command byte or at a data byte of CASET, PASET or RAMWR. -/
def Obligations.CmdAndBufferChangeOnlyByReceivedBytes : Prop :=
  ∀ s t : State, step s = .next t →
    (t.cmd ≠ s.cmd → ∃ i, s.Receives i ∧ i.role = .command ∧ t.cmd = i.opcode) ∧
    (t.pbuf ≠ s.pbuf → ∃ i, s.Receives i ∧
      (i.role = .command ∨ ∃ b, i = .caset (.data b) ∨ i = .paset (.data b) ∨ i = .ramwr (.data b)))

/-- 10_state.md section 3 (x_window, y_window): each window changes only at the fourth data byte of its own
command. -/
def Obligations.WindowsChangeOnlyAtTheFourthByte : Prop :=
  ∀ s t : State, s.BufferInv → step s = .next t →
    (t.xWindow ≠ s.xWindow → ∃ b, s.Receives (.caset (.data b)) ∧ s.pbuf.length = 3) ∧
    (t.yWindow ≠ s.yWindow → ∃ b, s.Receives (.paset (.data b)) ∧ s.pbuf.length = 3)

/-- 10_state.md section 3 (the cursor): the cursor changes only at the RAMWR command byte and at a pixel
commit. -/
def Obligations.CursorChangesOnlyByRamwr : Prop :=
  ∀ s t : State, s.BufferInv → step s = .next t → (t.x ≠ s.x ∨ t.y ≠ s.y) →
    s.Receives (.ramwr .command) ∨ ∃ b, s.Receives (.ramwr (.data b)) ∧ s.pbuf.length = 1

/-- 20_memory.md section 1, 41_framebuffer.md section R130: a cell changes only at a pixel commit, only the
cell of the cursor, and only while the cursor is inside the grid (outside it the write is dropped, the
spec's own decision D5). -/
def Obligations.CellsChangeOnlyByAPixelCommitAtTheCursor : Prop :=
  ∀ (s t : State) (idx : Nat), s.Inv → step s = .next t → t.fb.read idx ≠ s.fb.read idx →
    (∃ b, s.Receives (.ramwr (.data b))) ∧ s.pbuf.length = 1 ∧
    s.x.toNat < s.device.width ∧ s.y.toNat < s.device.height ∧
    idx = s.y.toNat * s.device.width + s.x.toNat

/-- 41_framebuffer.md section R132: the two framebuffer flags change only at their four command bytes, and
such a step changes no cell. -/
def Obligations.DisplayFlagsChangeOnlyByTheirCommands : Prop :=
  ∀ s t : State, step s = .next t →
    (t.inverted ≠ s.inverted →
      (s.Receives (.invoff .command) ∨ s.Receives (.invon .command)) ∧ t.fb = s.fb) ∧
    (t.displayEnabled ≠ s.displayEnabled →
      (s.Receives (.dispoff .command) ∨ s.Receives (.dispon .command)) ∧ t.fb = s.fb)

/-- 10_state.md section 3 (the orientation flags), 42_signal_lines.md section R143, 00_scope.md section 3:
the orientation flags change only at a MADCTL data byte, each latch only at its own set operation, the
construction parameters never. -/
def Obligations.OrientationLatchesAndDeviceHaveOneWriter : Prop :=
  ∀ s t : State, step s = .next t →
    (t.orientation ≠ s.orientation → ∃ m, s.Receives (.madctl (.data m))) ∧
    (t.chipSelect ≠ s.chipSelect → s.ops.head? = some (.csSet t.chipSelect)) ∧
    (t.dataSelect ≠ s.dataSelect → s.ops.head? = some (.dsSet t.dataSelect)) ∧
    t.device = s.device

/-! ## Noninterference -/

/-- R208: two devices that differ only in the orientation flags behave alike on every port: after any
number of the same operations they have returned the same answers and differ in those flags at most. -/
def Obligations.OrientationFlagsAreNeverRead : Prop :=
  ∀ (n : Nat) (s : State) (o : Orientation),
    ∃ t t', run n s = .next t ∧ run n { s with orientation := o } = .next t' ∧
      t' = { t with orientation := t'.orientation }

/-- 46_memory_write.md section R196, 41_framebuffer.md section R132: the two framebuffer flags condition
nothing inside the block: after the same operations, whatever the flags held, every other element is the
same; only what snapshots have returned may differ. -/
def Obligations.DisplayFlagsConditionNothing : Prop :=
  ∀ (n : Nat) (s : State) (d v : Bool),
    ∃ t t', run n s = .next t ∧ run n { s with displayEnabled := d, inverted := v } = .next t' ∧
      t' = { t with
        displayEnabled := t'.displayEnabled
        inverted := t'.inverted
        replies := t'.replies }

/-- 20_memory.md sections 1 and 7: no command's effect depends on the contents of the framebuffer: after the
same operations on another grid, every element but the grid and the snapshots taken is the same. -/
def Obligations.FramebufferContentsSteerNothing : Prop :=
  ∀ (n : Nat) (s : State) (f : Framebuffer),
    ∃ t t', run n s = .next t ∧ run n { s with fb := f } = .next t' ∧
      t' = { t with fb := t'.fb, replies := t'.replies }

/-- 20_memory.md section 6: reads may fall anywhere between the host's operations: leaving all of them out
of a stream leaves the final state as it was, but for the answers returned. -/
def Obligations.ReadsDisturbNothing : Prop :=
  ∀ s : State,
    ∃ t t', run s.ops.length s = .next t ∧
      run (s.ops.filter fun op => !isRead op).length { s with ops := s.ops.filter fun op => !isRead op }
        = .next t' ∧
      t' = { t with replies := s.replies }

/-! ## Reset and the invariant -/

/-- R133: construction gives a grid of `WIDTH*HEIGHT` black pixels, the display on, inversion off, for a
device within the bounds of R5; `State.reset` is such a construction. -/
def Obligations.ConstructionShowsABlackGrid : Prop :=
  (∀ d : Device, d.WellFormed →
    (State.resetFor d).view =
      { width := d.width, height := d.height
        pixels := List.replicate (d.width * d.height) ⟨0#8, 0#8, 0#8⟩
        displayEnabled := true, inverted := false }) ∧
  State.reset.device.WellFormed ∧ State.reset = State.resetFor State.reset.device

/-- 10_state.md section 6: the registers after reset. The latches, `cmd`, `pbuf`, the cursor, the
orientation flags and the numbers of the windows are the spec's own decisions (D3, D6 to D10); the ghost
and the two lists are the model's (log entries 2, 3, 6). -/
def Obligations.ResetLeavesTheRegistersOfTheTable : Prop :=
  State.reset.chipSelect = .high ∧ State.reset.dataSelect = .high ∧ State.reset.cmd = 0x00#8 ∧
  State.reset.pbuf = [] ∧
  State.reset.xWindow.start = 0#16 ∧ State.reset.xWindow.stop.toNat = State.reset.device.width ∧
  State.reset.yWindow.start = 0#16 ∧ State.reset.yWindow.stop.toNat = State.reset.device.height ∧
  State.reset.x = 0#16 ∧ State.reset.y = 0#16 ∧
  State.reset.orientation = ⟨false, false, false, false⟩ ∧
  State.reset.displayEnabled = true ∧ State.reset.inverted = false ∧
  (∀ idx, State.reset.fb.read idx = ⟨0#8, 0#8, 0#8⟩) ∧
  State.reset.oobSeen = false ∧ State.reset.ops = [] ∧ State.reset.replies = []

/-- 10_state.md section 5 (R35, derived there): the invariant holds after reset. -/
def Obligations.ResetMeetsTheInvariant : Prop :=
  State.reset.Inv ∧ State.reset.OnTarget ∧ State.reset.NoDrop

/-- 10_state.md section 5 (R35, derived there): every step from every state that meets the invariant keeps
it: how full the buffer can be under each command, the canonical cell list inside the grid, the channel
values of the layout, the parameter bounds. -/
def Obligations.StepKeepsTheInvariant : Prop :=
  ∀ s t : State, s.Inv → step s = .next t → t.Inv

/-- 93_implementation_defined.md U1, 70_reset_and_hazards.md section 3: under the static premise of U1
(whenever a RAMWR command byte is received, both windows lie inside the framebuffer) the cursor stays
inside its windows while pixels can be written, and no step drops a write; so what is proved under it does
not rest on the spec's own decisions D1 and D5. -/
def Obligations.WindowPremiseExcludesDroppedWrites : Prop :=
  ∀ s t : State, s.OnTarget → (s.RamwrNext → s.WindowsInside) → step s = .next t →
    t.OnTarget ∧ t.oobSeen = s.oobSeen

/-! ## Runs over streams of operations -/

/-- 30_encoding.md section 7, 45_window_set.md: the streams `CASET s, e` and `PASET s, e`, sent to a selected
device in any state, set the window to `(s, e)` and move nothing else but `cmd`, `pbuf` and
`data_select`. -/
def Obligations.WindowStreamsSetTheirWindow : Prop :=
  ∀ (s : State) (w : Window) (rest : List HostOp), s.chipSelect = .low →
    (s.ops = casetOps w ++ rest →
      run (casetOps w).length s =
        .next { s with dataSelect := .high, cmd := 0x2A#8, pbuf := [], xWindow := w, ops := rest }) ∧
    (s.ops = pasetOps w ++ rest →
      run (pasetOps w).length s =
        .next { s with dataSelect := .high, cmd := 0x2B#8, pbuf := [], yWindow := w, ops := rest })

/-- 45_window_set.md section R185 (the spec's own decision D11): after a CASET command byte and any number
`n` of data bytes, the window is that of the last complete group of four, or the old one when there is
none, and the bytes of the unfinished group are in the buffer; the row window, the cursor and the grid are
as before. PASET likewise. -/
def Obligations.WindowBytesCommitInGroupsOfFour : Prop :=
  ∀ (s : State) (bs : List Byte), s.chipSelect = .low →
    (s.ops = cmdOps 0x2A#8 ++ dataOps bs →
      ∃ t, run s.ops.length s = .next t ∧ t.cmd = 0x2A#8 ∧
        t.pbuf = bs.drop (bs.length / 4 * 4) ∧
        (bs.length < 4 → t.xWindow = s.xWindow) ∧
        (∀ p1 p2 p3 p4, (bs.take (bs.length / 4 * 4)).reverse.take 4 = [p4, p3, p2, p1] →
          t.xWindow = ⟨joinBytes p1 p2, joinBytes p3 p4⟩) ∧
        t.yWindow = s.yWindow ∧ t.x = s.x ∧ t.y = s.y ∧ t.fb = s.fb) ∧
    (s.ops = cmdOps 0x2B#8 ++ dataOps bs →
      ∃ t, run s.ops.length s = .next t ∧ t.cmd = 0x2B#8 ∧
        t.pbuf = bs.drop (bs.length / 4 * 4) ∧
        (bs.length < 4 → t.yWindow = s.yWindow) ∧
        (∀ p1 p2 p3 p4, (bs.take (bs.length / 4 * 4)).reverse.take 4 = [p4, p3, p2, p1] →
          t.yWindow = ⟨joinBytes p1 p2, joinBytes p3 p4⟩) ∧
        t.xWindow = s.xWindow ∧ t.x = s.x ∧ t.y = s.y ∧ t.fb = s.fb)

/-- 47_access_control.md section R207 (the spec's own decision D12): every MADCTL data byte is decoded, so the
last one decides all four flags; no number of them moves anything else but `cmd`, `pbuf` and
`data_select`. -/
def Obligations.LastMadctlByteWins : Prop :=
  ∀ (s : State) (bs : List Byte) (m : Byte), s.chipSelect = .low →
    s.ops = cmdOps 0x36#8 ++ dataOps (bs ++ [m]) →
    run s.ops.length s = .next { s with
      dataSelect := .high, cmd := 0x36#8, pbuf := [], orientation := orientationOf m, ops := [] }

/-- 46_memory_write.md section R194 (derived there): an odd data byte at the end of a pixel stream is lost at
the next command byte, whichever it is: the state is the same as if the byte had not been sent. -/
def Obligations.OddPixelByteIsLostAtTheNextCommand : Prop :=
  ∀ (s : State) (ws : List Word) (h c : Byte), s.chipSelect = .low →
    ∃ t,
      run (ramwrOps ++ pixelsOps ws ++ datOps h ++ cmdOps c).length
        { s with ops := ramwrOps ++ pixelsOps ws ++ datOps h ++ cmdOps c } = .next t ∧
      run (ramwrOps ++ pixelsOps ws ++ cmdOps c).length
        { s with ops := ramwrOps ++ pixelsOps ws ++ cmdOps c } = .next t ∧
      t.cmd = c ∧ t.pbuf = []

/-- 42_signal_lines.md section R140, 70_reset_and_hazards.md section 3: deselecting the device, presenting
any bytes and selecting it again leaves the command in progress, its buffer, the cursor and everything
else as they were. -/
def Obligations.DeselectedBurstLeavesTheCommandInProgress : Prop :=
  ∀ (s : State) (bs : List Byte) (rest : List HostOp), s.chipSelect = .low →
    s.ops = deselectOps ++ (bs.map HostOp.writeByte ++ (selectOps ++ rest)) →
    run (bs.length + 2) s = .next { s with ops := rest }

/-- 46_memory_write.md section R195 (derived there; the arithmetic modulo `2^16` and the drop are the spec's
own decisions D1 and D5): a RAMWR command byte and any number of pixel words, sent to a selected device in
any state with any windows, commit word `k` at column `start + k mod nx` and row
`start + (k div nx) mod ny`; the cursor ends at the point of the next commit. `data_select` ends Low when
there is no word, else High. `oobSeen` is the ghost of 93_implementation_defined.md U1, the model's own
field (log entry 6): it ends true exactly if it was true before or a word was dropped. -/
def Obligations.PixelStreamFollowsTheCursorLaw : Prop :=
  ∀ (s : State) (ws : List Word), s.chipSelect = .low → s.ops = ramwrOps ++ pixelsOps ws →
    run s.ops.length s = .next { s with
      dataSelect := if ws = [] then .low else .high
      cmd := 0x2C#8
      pbuf := []
      x := commitColumn s.xWindow ws.length
      y := commitRow s.xWindow s.yWindow ws.length
      fb := gridAfter s.device s.xWindow s.yWindow s.fb ws
      oobSeen := s.oobSeen || someDrop s.device s.xWindow s.yWindow ws.length
      ops := [] }

/-- 46_memory_write.md section R195 (a) (derived there), 90_conflicts.md C3: with windows inside the
framebuffer, one period of pixel words after RAMWR fills each cell of the window exactly once, row-major,
leaves every other cell alone and brings the cursor back to the window start. It ends under `cmd` 0x2C with
`pbuf` empty and `data_select` High; the ghost `oobSeen` (93_implementation_defined.md U1, the model's own
field, log entry 6) is as before. -/
def Obligations.OnePeriodFillsTheWindowRowMajor : Prop :=
  ∀ (s : State) (ws : List Word) (nx ny : Nat), s.chipSelect = .low → s.fb.wf → s.WindowsInside →
    s.xWindow.start.toNat + nx = s.xWindow.stop.toNat →
    s.yWindow.start.toNat + ny = s.yWindow.stop.toNat →
    ws.length = nx * ny → s.ops = ramwrOps ++ pixelsOps ws →
    ∃ t, run s.ops.length s = .next t ∧
      (∀ i j, i < nx → j < ny →
        t.fb.read ((s.yWindow.start.toNat + j) * s.device.width + (s.xWindow.start.toNat + i)) =
          decodePixel s.device.layout (ws.getD (j * nx + i) 0#16)) ∧
      (∀ idx, (∀ i j, i < nx → j < ny →
          idx ≠ (s.yWindow.start.toNat + j) * s.device.width + (s.xWindow.start.toNat + i)) →
        t.fb.read idx = s.fb.read idx) ∧
      t = { s with
        dataSelect := .high, cmd := 0x2C#8, pbuf := [], x := s.xWindow.start, y := s.yWindow.start
        fb := t.fb, ops := [] }
end

