-- ==== Sys2Proof/Laws/Operands.lean ====
section
/-! SUPPORT. What the operand and cursor functions compute, as arithmetic. -/

namespace Sys2Proof.Machine

theorem joinBytes_toNat (hi lo : Byte) : (joinBytes hi lo).toNat = hi.toNat * 256 + lo.toNat := by
  simp only [joinBytes, BitVec.toNat_append]
  rw [← Nat.shiftLeft_add_eq_or_of_lt lo.isLt, Nat.shiftLeft_eq]

/-- A word sent high byte first is assembled again as it was. -/
@[simp] theorem joinBytes_highByte_lowByte (w : Word) : joinBytes (highByte w) (lowByte w) = w := by
  apply BitVec.eq_of_toNat_eq
  simp only [joinBytes_toNat, highByte, lowByte, BitVec.extractLsb'_toNat, Nat.shiftRight_eq_div_pow]
  omega

@[simp] theorem newest_append (p : List Byte) (b : Byte) : newest (p ++ [b]) = b := by simp [newest]

@[simp] theorem windowOf_three (p1 p2 p3 b : Byte) :
    windowOf [p1, p2, p3] b = ⟨joinBytes p1 p2, joinBytes p3 b⟩ := rfl

theorem reachesEnd_iff (w : Window) (v : Word) :
    reachesEnd w v = true ↔ (v.toNat + 1) % 65536 = w.stop.toNat := by
  simp [reachesEnd, BitVec.toNat_eq]

theorem nextColumn_wrap {xw : Window} {x : Word} (h : reachesEnd xw x = true) : nextColumn xw x = xw.start := by
  simp [nextColumn, h]

theorem nextColumn_inc {xw : Window} {x : Word} (h : reachesEnd xw x = false) : nextColumn xw x = x + 1#16 := by
  simp [nextColumn, h]

/-- The row is the row axis' own advance when the column wraps, and stays otherwise. -/
theorem nextRow_eq (xw yw : Window) (x y : Word) :
    nextRow xw yw x y = if reachesEnd xw x then nextColumn yw y else y := rfl

end Sys2Proof.Machine
end

