-- ==== Sys2Proof/Laws/Cursor.lean ====
section
/-! SUPPORT. The cursor advance keeps a coordinate inside its window. -/

namespace Sys2Proof.Machine

/-- Inside a window that is not empty, one advance of an axis stays inside it. -/
theorem holds_nextColumn {w : Window} {v : Word} (hw : w.start.toNat < w.stop.toNat) (h : w.Holds v) :
    w.Holds (nextColumn w v) := by
  have hs := w.stop.isLt
  obtain ⟨h1, h2⟩ := h
  cases hr : reachesEnd w v with
  | true => rw [nextColumn_wrap hr]; exact ⟨le_refl _, hw⟩
  | false =>
    rw [nextColumn_inc hr]
    have hne : (v.toNat + 1) % 65536 ≠ w.stop.toNat := fun e => by simp [(reachesEnd_iff w v).2 e] at hr
    have hv : (v + 1#16).toNat = v.toNat + 1 := by simp; omega
    unfold Window.Holds
    omega

/-- The row stays inside its window too, whether or not the column wraps. -/
theorem holds_nextRow {xw yw : Window} {x y : Word} (hw : yw.start.toNat < yw.stop.toNat) (h : yw.Holds y) :
    yw.Holds (nextRow xw yw x y) := by
  rw [nextRow_eq]
  split
  · exact holds_nextColumn hw h
  · exact h

end Sys2Proof.Machine
end

