-- ==== Sys2Proof/Laws/Decode.lean ====
section
/-! SUPPORT. Small lemmas of the decoder: the three classes of byte, and the role and opcode of a row. -/

namespace Sys2Proof

@[simp] theorem decode_deselected (cmd b : Byte) (ds : Level) :
    decode cmd ⟨.high, ds, b⟩ = .rejected .notReceived := by cases ds <;> rfl

@[simp] theorem decode_command (cmd b : Byte) : decode cmd ⟨.low, .low, b⟩ = .instr (rowOf b .command) := rfl

@[simp] theorem decode_data (cmd b : Byte) : decode cmd ⟨.low, .high, b⟩ = .instr (rowOf cmd (.data b)) := rfl

/-- What a row of the opcode map can be: a recognised row under its own opcode, or OTHER under any opcode
outside the eight. -/
theorem rowOf_cases (op : Byte) (r : ByteRole) :
    (op = 0x20#8 ∧ rowOf op r = .invoff r) ∨ (op = 0x21#8 ∧ rowOf op r = .invon r) ∨
    (op = 0x28#8 ∧ rowOf op r = .dispoff r) ∨ (op = 0x29#8 ∧ rowOf op r = .dispon r) ∨
    (op = 0x2A#8 ∧ rowOf op r = .caset r) ∨ (op = 0x2B#8 ∧ rowOf op r = .paset r) ∨
    (op = 0x2C#8 ∧ rowOf op r = .ramwr r) ∨ (op = 0x36#8 ∧ rowOf op r = .madctl r) ∨
    (op ∉ recognisedOpcodes ∧ rowOf op r = .other op r) := by
  by_cases h : op ∈ recognisedOpcodes
  · simp only [recognisedOpcodes, List.mem_cons, List.not_mem_nil, or_false] at h
    rcases h with rfl | rfl | rfl | rfl | rfl | rfl | rfl | rfl <;> simp [rowOf]
  · have h' := h
    simp only [recognisedOpcodes, List.mem_cons, List.not_mem_nil, or_false, not_or] at h'
    obtain ⟨h1, h2, h3, h4, h5, h6, h7, h8⟩ := h'
    simp [rowOf, h, h1, h2, h3, h4, h5, h6, h7, h8]

@[simp] theorem opcode_rowOf (op : Byte) (r : ByteRole) : (rowOf op r).opcode = op := by
  rcases rowOf_cases op r with h | h | h | h | h | h | h | h | h <;> rw [h.2] <;> simp [Instr.opcode, h.1]

@[simp] theorem role_rowOf (op : Byte) (r : ByteRole) : (rowOf op r).role = r := by
  rcases rowOf_cases op r with h | h | h | h | h | h | h | h | h <;> rw [h.2] <;> rfl

@[simp] theorem wellFormed_rowOf (op : Byte) (r : ByteRole) : (rowOf op r).wellFormed = true := by
  rcases rowOf_cases op r with h | h | h | h | h | h | h | h | h <;> rw [h.2] <;> simp [Instr.wellFormed, h.1]

end Sys2Proof
end

