-- ==== Sys2Proof/Laws/Framebuffer.lean ====
section
/-! SUPPORT. The memory laws of the cell list: a write keeps the canonical form and stays inside the grid, a
read after a write, and canonical grids that read alike are equal. -/

namespace Sys2Proof.Machine

theorem Framebuffer.read_eq_black_of_lt {f : Framebuffer} {i : Nat} (h : ∀ c ∈ f, i < c.1) :
    f.read i = Pixel.black := by
  induction f with
  | nil => rfl
  | cons c f ih =>
    simp only [List.forall_mem_cons] at h
    simp [Framebuffer.read, Nat.ne_of_gt h.1, ih h.2]

theorem Framebuffer.wf_cons {c : Nat × Pixel} {f : Framebuffer} :
    Framebuffer.wf (c :: f) ↔ (∀ d ∈ f, c.1 < d.1) ∧ c.2 ≠ Pixel.black ∧ f.wf := by
  simp only [Framebuffer.wf, List.pairwise_cons, List.forall_mem_cons]
  tauto

theorem Framebuffer.read_cons {i : Nat} {p : Pixel} {f : Framebuffer} (h : ∀ c ∈ f, i < c.1) (j : Nat) :
    (Framebuffer.cons i p f).read j = if i = j then p else f.read j := by
  unfold Framebuffer.cons
  split
  · rename_i hp
    split
    · rename_i hij
      rw [hp, ← hij, read_eq_black_of_lt h]
    · rfl
  · rfl

theorem Framebuffer.cons_wf {i : Nat} {p : Pixel} {f : Framebuffer} (h : ∀ c ∈ f, i < c.1) (hf : f.wf) :
    (Framebuffer.cons i p f).wf := by
  unfold Framebuffer.cons
  split
  · exact hf
  · exact wf_cons.2 ⟨h, ‹_›, hf⟩

theorem Framebuffer.mem_cons {i : Nat} {p : Pixel} {f : Framebuffer} {c : Nat × Pixel}
    (h : c ∈ Framebuffer.cons i p f) : c = (i, p) ∨ c ∈ f := by
  unfold Framebuffer.cons at h
  split at h
  · exact .inr h
  · simpa using h

/-- What can stand in the list after a write: the cell written, or a cell that stood there before. -/
theorem Framebuffer.mem_write {f : Framebuffer} {i : Nat} {p : Pixel} {c : Nat × Pixel}
    (h : c ∈ f.write i p) : c = (i, p) ∨ c ∈ f := by
  induction f with
  | nil => exact mem_cons h
  | cons d f ih =>
    obtain ⟨j, q⟩ := d
    simp only [Framebuffer.write] at h
    split at h
    · exact mem_cons h
    · split at h
      · exact (mem_cons h).imp id (List.mem_cons_of_mem _)
      · rcases List.mem_cons.1 h with rfl | h
        · simp
        · exact (ih h).imp id (List.mem_cons_of_mem _)

theorem Framebuffer.write_wf {f : Framebuffer} (hf : f.wf) (i : Nat) (p : Pixel) : (f.write i p).wf := by
  induction f with
  | nil => exact cons_wf (by simp) hf
  | cons d f ih =>
    obtain ⟨j, q⟩ := d
    obtain ⟨hj, hq, hf'⟩ := wf_cons.1 hf
    simp only [Framebuffer.write]
    split
    · rename_i hij
      refine cons_wf ?_ hf
      simp only [List.forall_mem_cons]
      exact ⟨hij, fun c hc => hij.trans (hj c hc)⟩
    · split
      · rename_i hij
        exact cons_wf (hij ▸ hj) hf'
      · refine wf_cons.2 ⟨fun c hc => ?_, hq, ih hf'⟩
        rcases mem_write hc with rfl | hc
        · show j < i
          omega
        · exact hj c hc

/-- Reading after a write: the cell written holds the new pixel, every other cell the old one. -/
theorem Framebuffer.read_write {f : Framebuffer} (hf : f.wf) (i j : Nat) (p : Pixel) :
    (f.write i p).read j = if i = j then p else f.read j := by
  induction f with
  | nil => exact read_cons (by simp) j
  | cons d f ih =>
    obtain ⟨k, q⟩ := d
    obtain ⟨hk, -, hf'⟩ := wf_cons.1 hf
    simp only [Framebuffer.write]
    split
    · rename_i hik
      refine read_cons ?_ j
      simp only [List.forall_mem_cons]
      exact ⟨hik, fun c hc => hik.trans (hk c hc)⟩
    · split
      · rename_i hik
        rw [read_cons (hik ▸ hk) j]
        subst hik
        simp only [Framebuffer.read]
        split <;> rfl
      · simp only [Framebuffer.read, ih hf']
        split <;> split <;> first | rfl | omega

theorem Framebuffer.write_within {f : Framebuffer} {n i : Nat} {p : Pixel} (hf : f.within n) (hi : i < n) :
    (f.write i p).within n := fun _ hc => (mem_write hc).elim (fun h => h ▸ hi) (hf _)

/-- Two canonical grids that read alike everywhere are the same list. -/
theorem Framebuffer.eq_of_read_eq {f g : Framebuffer} (hf : f.wf) (hg : g.wf)
    (h : ∀ i, f.read i = g.read i) : f = g := by
  induction f generalizing g with
  | nil =>
    cases g with
    | nil => rfl
    | cons d g =>
      have := h d.1
      simp [Framebuffer.read] at this
      exact absurd this.symm (wf_cons.1 hg).2.1
  | cons c f ih =>
    obtain ⟨hc, hcb, hf'⟩ := wf_cons.1 hf
    cases g with
    | nil =>
      have := h c.1
      simp [Framebuffer.read] at this
      exact absurd this hcb
    | cons d g =>
      obtain ⟨hd, hdb, hg'⟩ := wf_cons.1 hg
      have hk : c.1 = d.1 := by
        rcases Nat.lt_trichotomy c.1 d.1 with hlt | heq | hlt
        · have := h c.1
          rw [read_eq_black_of_lt (f := d :: g) (by
            simp only [List.forall_mem_cons]
            exact ⟨hlt, fun e he => hlt.trans (hd e he)⟩)] at this
          simp [Framebuffer.read] at this
          exact absurd this hcb
        · exact heq
        · have := h d.1
          rw [read_eq_black_of_lt (f := c :: f) (by
            simp only [List.forall_mem_cons]
            exact ⟨hlt, fun e he => hlt.trans (hc e he)⟩)] at this
          simp [Framebuffer.read] at this
          exact absurd this.symm hdb
      have hv : c.2 = d.2 := by
        have := h c.1
        simpa [Framebuffer.read, hk] using this
      have htail : f = g := by
        refine ih hf' hg' fun i => ?_
        have hi := h i
        simp only [Framebuffer.read, hk, hv] at hi
        split at hi
        · rename_i hdi
          rw [read_eq_black_of_lt (fun e he => hdi ▸ hk ▸ hc e he),
            read_eq_black_of_lt (fun e he => hdi ▸ hd e he)]
        · exact hi
      rw [htail, Prod.ext hk hv]

theorem inGrid_iff {d : Device} {x y : Word} :
    inGrid d x y = true ↔ x.toNat < d.width ∧ y.toNat < d.height := by simp [inGrid]

/-- The linear index of a point of the grid is one of the grid's cells (R61). -/
theorem cellIndex_lt {d : Device} {x y : Word} (h : inGrid d x y = true) : cellIndex d x y < cellCount d := by
  obtain ⟨hx, hy⟩ := inGrid_iff.1 h
  have : (y.toNat + 1) * d.width ≤ d.height * d.width := Nat.mul_le_mul_right _ hy
  unfold cellIndex cellCount
  rw [Nat.mul_comm d.width]
  linarith [Nat.succ_mul y.toNat d.width]

/-- Points of the grid with the same linear index are the same point. -/
theorem cellIndex_inj {d : Device} {x y x' y' : Word} (h : inGrid d x y = true) (h' : inGrid d x' y' = true)
    (he : cellIndex d x y = cellIndex d x' y') : x = x' ∧ y = y' := by
  obtain ⟨hx, -⟩ := inGrid_iff.1 h
  obtain ⟨hx', -⟩ := inGrid_iff.1 h'
  have hmod := congrArg (· % d.width) he
  have hdiv := congrArg (· / d.width) he
  simp only [cellIndex, Nat.mul_comm _ d.width] at hmod hdiv
  rw [Nat.mul_add_mod, Nat.mul_add_mod, Nat.mod_eq_of_lt hx, Nat.mod_eq_of_lt hx'] at hmod
  rw [Nat.mul_add_div (by omega), Nat.mul_add_div (by omega), Nat.div_eq_of_lt hx, Nat.div_eq_of_lt hx'] at hdiv
  exact ⟨BitVec.eq_of_toNat_eq hmod, BitVec.eq_of_toNat_eq (by simpa using hdiv)⟩

theorem Framebuffer.set_inGrid {d : Device} {x y : Word} (h : inGrid d x y = true) (p : Pixel)
    (f : Framebuffer) : f.set d x y p = f.write (cellIndex d x y) p := by simp [Framebuffer.set, h]

@[simp] theorem Framebuffer.set_dropped {d : Device} {x y : Word} (h : inGrid d x y = false) (p : Pixel)
    (f : Framebuffer) : f.set d x y p = f := by simp [Framebuffer.set, h]

theorem Framebuffer.set_wf {f : Framebuffer} (hf : f.wf) (d : Device) (x y : Word) (p : Pixel) :
    (f.set d x y p).wf := by
  unfold Framebuffer.set
  split
  · exact write_wf hf _ _
  · exact hf

theorem Framebuffer.set_within {f : Framebuffer} {d : Device} (hf : f.within (cellCount d)) (x y : Word)
    (p : Pixel) : (f.set d x y p).within (cellCount d) := by
  unfold Framebuffer.set
  split
  · exact write_within hf (cellIndex_lt ‹_›)
  · exact hf

/-- Everything a gated write can put into the list. -/
theorem Framebuffer.mem_set {f : Framebuffer} {d : Device} {x y : Word} {p : Pixel} {c : Nat × Pixel}
    (h : c ∈ f.set d x y p) : c.2 = p ∨ c ∈ f := by
  unfold Framebuffer.set at h
  split at h
  · exact (mem_write h).imp (fun e => by rw [e]) id
  · exact .inr h

/-- The read law of a gated write (R130). -/
theorem Framebuffer.read_set {f : Framebuffer} (hf : f.wf) (d : Device) (x y : Word) (p : Pixel) (j : Nat) :
    (f.set d x y p).read j = if inGrid d x y = true ∧ cellIndex d x y = j then p else f.read j := by
  unfold Framebuffer.set
  split
  · simp [read_write hf, *]
  · simp [*]

end Sys2Proof.Machine
end

