-- ==== Sys2Proof/Laws/PerInstr.lean ====
section
/-! SUPPORT. Statements about each instruction as syntax. Family `PresentedAsReceived`: the triple that
presents an instruction is a received one, of the class its role names (30_encoding.md R90). -/

namespace Sys2Proof.Laws.PresentedAsReceived

/-- The class of byte that a role is presented as. -/
def classOf (opcode : Byte) : ByteRole → ByteClass
  | .command => .command opcode
  | .data b  => .data b

/-- The encoding of `i` is a selected triple of the class `i`'s role names. -/
def Statement (i : Instr) : Prop :=
  (encode i).chipSelect = .low ∧ (encode i).classify = classOf i.opcode i.role

theorem invoff (role : ByteRole) : Statement (.invoff role) := by cases role <;> exact ⟨rfl, rfl⟩
theorem invon (role : ByteRole) : Statement (.invon role) := by cases role <;> exact ⟨rfl, rfl⟩
theorem dispoff (role : ByteRole) : Statement (.dispoff role) := by cases role <;> exact ⟨rfl, rfl⟩
theorem dispon (role : ByteRole) : Statement (.dispon role) := by cases role <;> exact ⟨rfl, rfl⟩
theorem caset (role : ByteRole) : Statement (.caset role) := by cases role <;> exact ⟨rfl, rfl⟩
theorem paset (role : ByteRole) : Statement (.paset role) := by cases role <;> exact ⟨rfl, rfl⟩
theorem ramwr (role : ByteRole) : Statement (.ramwr role) := by cases role <;> exact ⟨rfl, rfl⟩
theorem madctl (role : ByteRole) : Statement (.madctl role) := by cases role <;> exact ⟨rfl, rfl⟩
theorem other (v : Byte) (role : ByteRole) : Statement (.other v role) := by cases role <;> exact ⟨rfl, rfl⟩

end Sys2Proof.Laws.PresentedAsReceived
end

