-- ==== Sys2Proof/Laws/State.lean ====
section
/-! SUPPORT. One lemma per field per state update: what the shared operations leave in each field. -/

namespace Sys2Proof.Machine

section
variable (s : State) (l : Level)

@[simp] theorem csSet_device : (s.csSet l).device = s.device := rfl
@[simp] theorem csSet_chipSelect : (s.csSet l).chipSelect = l := rfl
@[simp] theorem csSet_dataSelect : (s.csSet l).dataSelect = s.dataSelect := rfl
@[simp] theorem csSet_cmd : (s.csSet l).cmd = s.cmd := rfl
@[simp] theorem csSet_pbuf : (s.csSet l).pbuf = s.pbuf := rfl
@[simp] theorem csSet_xWindow : (s.csSet l).xWindow = s.xWindow := rfl
@[simp] theorem csSet_yWindow : (s.csSet l).yWindow = s.yWindow := rfl
@[simp] theorem csSet_x : (s.csSet l).x = s.x := rfl
@[simp] theorem csSet_y : (s.csSet l).y = s.y := rfl
@[simp] theorem csSet_orientation : (s.csSet l).orientation = s.orientation := rfl
@[simp] theorem csSet_displayEnabled : (s.csSet l).displayEnabled = s.displayEnabled := rfl
@[simp] theorem csSet_inverted : (s.csSet l).inverted = s.inverted := rfl
@[simp] theorem csSet_fb : (s.csSet l).fb = s.fb := rfl
@[simp] theorem csSet_oobSeen : (s.csSet l).oobSeen = s.oobSeen := rfl
@[simp] theorem csSet_ops : (s.csSet l).ops = s.ops := rfl
@[simp] theorem csSet_replies : (s.csSet l).replies = s.replies := rfl

end

section
variable (s : State) (l : Level)

@[simp] theorem dsSet_device : (s.dsSet l).device = s.device := rfl
@[simp] theorem dsSet_chipSelect : (s.dsSet l).chipSelect = s.chipSelect := rfl
@[simp] theorem dsSet_dataSelect : (s.dsSet l).dataSelect = l := rfl
@[simp] theorem dsSet_cmd : (s.dsSet l).cmd = s.cmd := rfl
@[simp] theorem dsSet_pbuf : (s.dsSet l).pbuf = s.pbuf := rfl
@[simp] theorem dsSet_xWindow : (s.dsSet l).xWindow = s.xWindow := rfl
@[simp] theorem dsSet_yWindow : (s.dsSet l).yWindow = s.yWindow := rfl
@[simp] theorem dsSet_x : (s.dsSet l).x = s.x := rfl
@[simp] theorem dsSet_y : (s.dsSet l).y = s.y := rfl
@[simp] theorem dsSet_orientation : (s.dsSet l).orientation = s.orientation := rfl
@[simp] theorem dsSet_displayEnabled : (s.dsSet l).displayEnabled = s.displayEnabled := rfl
@[simp] theorem dsSet_inverted : (s.dsSet l).inverted = s.inverted := rfl
@[simp] theorem dsSet_fb : (s.dsSet l).fb = s.fb := rfl
@[simp] theorem dsSet_oobSeen : (s.dsSet l).oobSeen = s.oobSeen := rfl
@[simp] theorem dsSet_ops : (s.dsSet l).ops = s.ops := rfl
@[simp] theorem dsSet_replies : (s.dsSet l).replies = s.replies := rfl

end

section
variable (s : State) (r : Reply)

@[simp] theorem reply_device : (s.reply r).device = s.device := rfl
@[simp] theorem reply_chipSelect : (s.reply r).chipSelect = s.chipSelect := rfl
@[simp] theorem reply_dataSelect : (s.reply r).dataSelect = s.dataSelect := rfl
@[simp] theorem reply_cmd : (s.reply r).cmd = s.cmd := rfl
@[simp] theorem reply_pbuf : (s.reply r).pbuf = s.pbuf := rfl
@[simp] theorem reply_xWindow : (s.reply r).xWindow = s.xWindow := rfl
@[simp] theorem reply_yWindow : (s.reply r).yWindow = s.yWindow := rfl
@[simp] theorem reply_x : (s.reply r).x = s.x := rfl
@[simp] theorem reply_y : (s.reply r).y = s.y := rfl
@[simp] theorem reply_orientation : (s.reply r).orientation = s.orientation := rfl
@[simp] theorem reply_displayEnabled : (s.reply r).displayEnabled = s.displayEnabled := rfl
@[simp] theorem reply_inverted : (s.reply r).inverted = s.inverted := rfl
@[simp] theorem reply_fb : (s.reply r).fb = s.fb := rfl
@[simp] theorem reply_oobSeen : (s.reply r).oobSeen = s.oobSeen := rfl
@[simp] theorem reply_ops : (s.reply r).ops = s.ops := rfl
@[simp] theorem reply_replies : (s.reply r).replies = s.replies ++ [r] := rfl

end

section
variable (s : State) (b : Byte)

@[simp] theorem latchCommand_device : (s.latchCommand b).device = s.device := rfl
@[simp] theorem latchCommand_chipSelect : (s.latchCommand b).chipSelect = s.chipSelect := rfl
@[simp] theorem latchCommand_dataSelect : (s.latchCommand b).dataSelect = s.dataSelect := rfl
@[simp] theorem latchCommand_cmd : (s.latchCommand b).cmd = b := rfl
@[simp] theorem latchCommand_pbuf : (s.latchCommand b).pbuf = [] := rfl
@[simp] theorem latchCommand_xWindow : (s.latchCommand b).xWindow = s.xWindow := rfl
@[simp] theorem latchCommand_yWindow : (s.latchCommand b).yWindow = s.yWindow := rfl
@[simp] theorem latchCommand_x : (s.latchCommand b).x = s.x := rfl
@[simp] theorem latchCommand_y : (s.latchCommand b).y = s.y := rfl
@[simp] theorem latchCommand_orientation : (s.latchCommand b).orientation = s.orientation := rfl
@[simp] theorem latchCommand_displayEnabled : (s.latchCommand b).displayEnabled = s.displayEnabled := rfl
@[simp] theorem latchCommand_inverted : (s.latchCommand b).inverted = s.inverted := rfl
@[simp] theorem latchCommand_fb : (s.latchCommand b).fb = s.fb := rfl
@[simp] theorem latchCommand_oobSeen : (s.latchCommand b).oobSeen = s.oobSeen := rfl
@[simp] theorem latchCommand_ops : (s.latchCommand b).ops = s.ops := rfl
@[simp] theorem latchCommand_replies : (s.latchCommand b).replies = s.replies := rfl

end

section
variable (s : State) (b : Byte)

@[simp] theorem pushParam_device : (s.pushParam b).device = s.device := rfl
@[simp] theorem pushParam_chipSelect : (s.pushParam b).chipSelect = s.chipSelect := rfl
@[simp] theorem pushParam_dataSelect : (s.pushParam b).dataSelect = s.dataSelect := rfl
@[simp] theorem pushParam_cmd : (s.pushParam b).cmd = s.cmd := rfl
@[simp] theorem pushParam_pbuf : (s.pushParam b).pbuf = s.pbuf ++ [b] := rfl
@[simp] theorem pushParam_xWindow : (s.pushParam b).xWindow = s.xWindow := rfl
@[simp] theorem pushParam_yWindow : (s.pushParam b).yWindow = s.yWindow := rfl
@[simp] theorem pushParam_x : (s.pushParam b).x = s.x := rfl
@[simp] theorem pushParam_y : (s.pushParam b).y = s.y := rfl
@[simp] theorem pushParam_orientation : (s.pushParam b).orientation = s.orientation := rfl
@[simp] theorem pushParam_displayEnabled : (s.pushParam b).displayEnabled = s.displayEnabled := rfl
@[simp] theorem pushParam_inverted : (s.pushParam b).inverted = s.inverted := rfl
@[simp] theorem pushParam_fb : (s.pushParam b).fb = s.fb := rfl
@[simp] theorem pushParam_oobSeen : (s.pushParam b).oobSeen = s.oobSeen := rfl
@[simp] theorem pushParam_ops : (s.pushParam b).ops = s.ops := rfl
@[simp] theorem pushParam_replies : (s.pushParam b).replies = s.replies := rfl

end

section
variable (s : State)

@[simp] theorem popParam_device : (s.popParam).device = s.device := rfl
@[simp] theorem popParam_chipSelect : (s.popParam).chipSelect = s.chipSelect := rfl
@[simp] theorem popParam_dataSelect : (s.popParam).dataSelect = s.dataSelect := rfl
@[simp] theorem popParam_cmd : (s.popParam).cmd = s.cmd := rfl
@[simp] theorem popParam_pbuf : (s.popParam).pbuf = s.pbuf.dropLast := rfl
@[simp] theorem popParam_xWindow : (s.popParam).xWindow = s.xWindow := rfl
@[simp] theorem popParam_yWindow : (s.popParam).yWindow = s.yWindow := rfl
@[simp] theorem popParam_x : (s.popParam).x = s.x := rfl
@[simp] theorem popParam_y : (s.popParam).y = s.y := rfl
@[simp] theorem popParam_orientation : (s.popParam).orientation = s.orientation := rfl
@[simp] theorem popParam_displayEnabled : (s.popParam).displayEnabled = s.displayEnabled := rfl
@[simp] theorem popParam_inverted : (s.popParam).inverted = s.inverted := rfl
@[simp] theorem popParam_fb : (s.popParam).fb = s.fb := rfl
@[simp] theorem popParam_oobSeen : (s.popParam).oobSeen = s.oobSeen := rfl
@[simp] theorem popParam_ops : (s.popParam).ops = s.ops := rfl
@[simp] theorem popParam_replies : (s.popParam).replies = s.replies := rfl

end

section
variable (s : State) (w : Window)

@[simp] theorem setXWindow_device : (s.setXWindow w).device = s.device := rfl
@[simp] theorem setXWindow_chipSelect : (s.setXWindow w).chipSelect = s.chipSelect := rfl
@[simp] theorem setXWindow_dataSelect : (s.setXWindow w).dataSelect = s.dataSelect := rfl
@[simp] theorem setXWindow_cmd : (s.setXWindow w).cmd = s.cmd := rfl
@[simp] theorem setXWindow_pbuf : (s.setXWindow w).pbuf = s.pbuf := rfl
@[simp] theorem setXWindow_xWindow : (s.setXWindow w).xWindow = w := rfl
@[simp] theorem setXWindow_yWindow : (s.setXWindow w).yWindow = s.yWindow := rfl
@[simp] theorem setXWindow_x : (s.setXWindow w).x = s.x := rfl
@[simp] theorem setXWindow_y : (s.setXWindow w).y = s.y := rfl
@[simp] theorem setXWindow_orientation : (s.setXWindow w).orientation = s.orientation := rfl
@[simp] theorem setXWindow_displayEnabled : (s.setXWindow w).displayEnabled = s.displayEnabled := rfl
@[simp] theorem setXWindow_inverted : (s.setXWindow w).inverted = s.inverted := rfl
@[simp] theorem setXWindow_fb : (s.setXWindow w).fb = s.fb := rfl
@[simp] theorem setXWindow_oobSeen : (s.setXWindow w).oobSeen = s.oobSeen := rfl
@[simp] theorem setXWindow_ops : (s.setXWindow w).ops = s.ops := rfl
@[simp] theorem setXWindow_replies : (s.setXWindow w).replies = s.replies := rfl

end

section
variable (s : State) (w : Window)

@[simp] theorem setYWindow_device : (s.setYWindow w).device = s.device := rfl
@[simp] theorem setYWindow_chipSelect : (s.setYWindow w).chipSelect = s.chipSelect := rfl
@[simp] theorem setYWindow_dataSelect : (s.setYWindow w).dataSelect = s.dataSelect := rfl
@[simp] theorem setYWindow_cmd : (s.setYWindow w).cmd = s.cmd := rfl
@[simp] theorem setYWindow_pbuf : (s.setYWindow w).pbuf = s.pbuf := rfl
@[simp] theorem setYWindow_xWindow : (s.setYWindow w).xWindow = s.xWindow := rfl
@[simp] theorem setYWindow_yWindow : (s.setYWindow w).yWindow = w := rfl
@[simp] theorem setYWindow_x : (s.setYWindow w).x = s.x := rfl
@[simp] theorem setYWindow_y : (s.setYWindow w).y = s.y := rfl
@[simp] theorem setYWindow_orientation : (s.setYWindow w).orientation = s.orientation := rfl
@[simp] theorem setYWindow_displayEnabled : (s.setYWindow w).displayEnabled = s.displayEnabled := rfl
@[simp] theorem setYWindow_inverted : (s.setYWindow w).inverted = s.inverted := rfl
@[simp] theorem setYWindow_fb : (s.setYWindow w).fb = s.fb := rfl
@[simp] theorem setYWindow_oobSeen : (s.setYWindow w).oobSeen = s.oobSeen := rfl
@[simp] theorem setYWindow_ops : (s.setYWindow w).ops = s.ops := rfl
@[simp] theorem setYWindow_replies : (s.setYWindow w).replies = s.replies := rfl

end

section
variable (s : State) (px py : Word)

@[simp] theorem setCursor_device : (s.setCursor px py).device = s.device := rfl
@[simp] theorem setCursor_chipSelect : (s.setCursor px py).chipSelect = s.chipSelect := rfl
@[simp] theorem setCursor_dataSelect : (s.setCursor px py).dataSelect = s.dataSelect := rfl
@[simp] theorem setCursor_cmd : (s.setCursor px py).cmd = s.cmd := rfl
@[simp] theorem setCursor_pbuf : (s.setCursor px py).pbuf = s.pbuf := rfl
@[simp] theorem setCursor_xWindow : (s.setCursor px py).xWindow = s.xWindow := rfl
@[simp] theorem setCursor_yWindow : (s.setCursor px py).yWindow = s.yWindow := rfl
@[simp] theorem setCursor_x : (s.setCursor px py).x = px := rfl
@[simp] theorem setCursor_y : (s.setCursor px py).y = py := rfl
@[simp] theorem setCursor_orientation : (s.setCursor px py).orientation = s.orientation := rfl
@[simp] theorem setCursor_displayEnabled : (s.setCursor px py).displayEnabled = s.displayEnabled := rfl
@[simp] theorem setCursor_inverted : (s.setCursor px py).inverted = s.inverted := rfl
@[simp] theorem setCursor_fb : (s.setCursor px py).fb = s.fb := rfl
@[simp] theorem setCursor_oobSeen : (s.setCursor px py).oobSeen = s.oobSeen := rfl
@[simp] theorem setCursor_ops : (s.setCursor px py).ops = s.ops := rfl
@[simp] theorem setCursor_replies : (s.setCursor px py).replies = s.replies := rfl

end

section
variable (s : State) (v : Bool)

@[simp] theorem setInverted_device : (s.setInverted v).device = s.device := rfl
@[simp] theorem setInverted_chipSelect : (s.setInverted v).chipSelect = s.chipSelect := rfl
@[simp] theorem setInverted_dataSelect : (s.setInverted v).dataSelect = s.dataSelect := rfl
@[simp] theorem setInverted_cmd : (s.setInverted v).cmd = s.cmd := rfl
@[simp] theorem setInverted_pbuf : (s.setInverted v).pbuf = s.pbuf := rfl
@[simp] theorem setInverted_xWindow : (s.setInverted v).xWindow = s.xWindow := rfl
@[simp] theorem setInverted_yWindow : (s.setInverted v).yWindow = s.yWindow := rfl
@[simp] theorem setInverted_x : (s.setInverted v).x = s.x := rfl
@[simp] theorem setInverted_y : (s.setInverted v).y = s.y := rfl
@[simp] theorem setInverted_orientation : (s.setInverted v).orientation = s.orientation := rfl
@[simp] theorem setInverted_displayEnabled : (s.setInverted v).displayEnabled = s.displayEnabled := rfl
@[simp] theorem setInverted_inverted : (s.setInverted v).inverted = v := rfl
@[simp] theorem setInverted_fb : (s.setInverted v).fb = s.fb := rfl
@[simp] theorem setInverted_oobSeen : (s.setInverted v).oobSeen = s.oobSeen := rfl
@[simp] theorem setInverted_ops : (s.setInverted v).ops = s.ops := rfl
@[simp] theorem setInverted_replies : (s.setInverted v).replies = s.replies := rfl

end

section
variable (s : State) (v : Bool)

@[simp] theorem setDisplayEnabled_device : (s.setDisplayEnabled v).device = s.device := rfl
@[simp] theorem setDisplayEnabled_chipSelect : (s.setDisplayEnabled v).chipSelect = s.chipSelect := rfl
@[simp] theorem setDisplayEnabled_dataSelect : (s.setDisplayEnabled v).dataSelect = s.dataSelect := rfl
@[simp] theorem setDisplayEnabled_cmd : (s.setDisplayEnabled v).cmd = s.cmd := rfl
@[simp] theorem setDisplayEnabled_pbuf : (s.setDisplayEnabled v).pbuf = s.pbuf := rfl
@[simp] theorem setDisplayEnabled_xWindow : (s.setDisplayEnabled v).xWindow = s.xWindow := rfl
@[simp] theorem setDisplayEnabled_yWindow : (s.setDisplayEnabled v).yWindow = s.yWindow := rfl
@[simp] theorem setDisplayEnabled_x : (s.setDisplayEnabled v).x = s.x := rfl
@[simp] theorem setDisplayEnabled_y : (s.setDisplayEnabled v).y = s.y := rfl
@[simp] theorem setDisplayEnabled_orientation : (s.setDisplayEnabled v).orientation = s.orientation := rfl
@[simp] theorem setDisplayEnabled_displayEnabled : (s.setDisplayEnabled v).displayEnabled = v := rfl
@[simp] theorem setDisplayEnabled_inverted : (s.setDisplayEnabled v).inverted = s.inverted := rfl
@[simp] theorem setDisplayEnabled_fb : (s.setDisplayEnabled v).fb = s.fb := rfl
@[simp] theorem setDisplayEnabled_oobSeen : (s.setDisplayEnabled v).oobSeen = s.oobSeen := rfl
@[simp] theorem setDisplayEnabled_ops : (s.setDisplayEnabled v).ops = s.ops := rfl
@[simp] theorem setDisplayEnabled_replies : (s.setDisplayEnabled v).replies = s.replies := rfl

end

section
variable (s : State) (m : Byte)

@[simp] theorem setOrientation_device : (s.setOrientation m).device = s.device := rfl
@[simp] theorem setOrientation_chipSelect : (s.setOrientation m).chipSelect = s.chipSelect := rfl
@[simp] theorem setOrientation_dataSelect : (s.setOrientation m).dataSelect = s.dataSelect := rfl
@[simp] theorem setOrientation_cmd : (s.setOrientation m).cmd = s.cmd := rfl
@[simp] theorem setOrientation_pbuf : (s.setOrientation m).pbuf = s.pbuf := rfl
@[simp] theorem setOrientation_xWindow : (s.setOrientation m).xWindow = s.xWindow := rfl
@[simp] theorem setOrientation_yWindow : (s.setOrientation m).yWindow = s.yWindow := rfl
@[simp] theorem setOrientation_x : (s.setOrientation m).x = s.x := rfl
@[simp] theorem setOrientation_y : (s.setOrientation m).y = s.y := rfl
@[simp] theorem setOrientation_orientation : (s.setOrientation m).orientation = orientationOf m := rfl
@[simp] theorem setOrientation_displayEnabled : (s.setOrientation m).displayEnabled = s.displayEnabled := rfl
@[simp] theorem setOrientation_inverted : (s.setOrientation m).inverted = s.inverted := rfl
@[simp] theorem setOrientation_fb : (s.setOrientation m).fb = s.fb := rfl
@[simp] theorem setOrientation_oobSeen : (s.setOrientation m).oobSeen = s.oobSeen := rfl
@[simp] theorem setOrientation_ops : (s.setOrientation m).ops = s.ops := rfl
@[simp] theorem setOrientation_replies : (s.setOrientation m).replies = s.replies := rfl

end

section
variable (s : State) (px py : Word) (p : Pixel)

@[simp] theorem fbSet_device : (s.fbSet px py p).device = s.device := rfl
@[simp] theorem fbSet_chipSelect : (s.fbSet px py p).chipSelect = s.chipSelect := rfl
@[simp] theorem fbSet_dataSelect : (s.fbSet px py p).dataSelect = s.dataSelect := rfl
@[simp] theorem fbSet_cmd : (s.fbSet px py p).cmd = s.cmd := rfl
@[simp] theorem fbSet_pbuf : (s.fbSet px py p).pbuf = s.pbuf := rfl
@[simp] theorem fbSet_xWindow : (s.fbSet px py p).xWindow = s.xWindow := rfl
@[simp] theorem fbSet_yWindow : (s.fbSet px py p).yWindow = s.yWindow := rfl
@[simp] theorem fbSet_x : (s.fbSet px py p).x = s.x := rfl
@[simp] theorem fbSet_y : (s.fbSet px py p).y = s.y := rfl
@[simp] theorem fbSet_orientation : (s.fbSet px py p).orientation = s.orientation := rfl
@[simp] theorem fbSet_displayEnabled : (s.fbSet px py p).displayEnabled = s.displayEnabled := rfl
@[simp] theorem fbSet_inverted : (s.fbSet px py p).inverted = s.inverted := rfl
@[simp] theorem fbSet_fb : (s.fbSet px py p).fb = s.fb.set s.device px py p := rfl
@[simp] theorem fbSet_oobSeen : (s.fbSet px py p).oobSeen = (s.oobSeen || !inGrid s.device px py) := rfl
@[simp] theorem fbSet_ops : (s.fbSet px py p).ops = s.ops := rfl
@[simp] theorem fbSet_replies : (s.fbSet px py p).replies = s.replies := rfl

end

section
variable (s : State)

@[simp] theorem advanceCursor_device : (s.advanceCursor).device = s.device := rfl
@[simp] theorem advanceCursor_chipSelect : (s.advanceCursor).chipSelect = s.chipSelect := rfl
@[simp] theorem advanceCursor_dataSelect : (s.advanceCursor).dataSelect = s.dataSelect := rfl
@[simp] theorem advanceCursor_cmd : (s.advanceCursor).cmd = s.cmd := rfl
@[simp] theorem advanceCursor_pbuf : (s.advanceCursor).pbuf = s.pbuf := rfl
@[simp] theorem advanceCursor_xWindow : (s.advanceCursor).xWindow = s.xWindow := rfl
@[simp] theorem advanceCursor_yWindow : (s.advanceCursor).yWindow = s.yWindow := rfl
@[simp] theorem advanceCursor_x : (s.advanceCursor).x = nextColumn s.xWindow s.x := rfl
@[simp] theorem advanceCursor_y : (s.advanceCursor).y = nextRow s.xWindow s.yWindow s.x s.y := rfl
@[simp] theorem advanceCursor_orientation : (s.advanceCursor).orientation = s.orientation := rfl
@[simp] theorem advanceCursor_displayEnabled : (s.advanceCursor).displayEnabled = s.displayEnabled := rfl
@[simp] theorem advanceCursor_inverted : (s.advanceCursor).inverted = s.inverted := rfl
@[simp] theorem advanceCursor_fb : (s.advanceCursor).fb = s.fb := rfl
@[simp] theorem advanceCursor_oobSeen : (s.advanceCursor).oobSeen = s.oobSeen := rfl
@[simp] theorem advanceCursor_ops : (s.advanceCursor).ops = s.ops := rfl
@[simp] theorem advanceCursor_replies : (s.advanceCursor).replies = s.replies := rfl

end

section
variable (s : State) (w : Word)

@[simp] theorem commitPixel_device : (s.commitPixel w).device = s.device := rfl
@[simp] theorem commitPixel_chipSelect : (s.commitPixel w).chipSelect = s.chipSelect := rfl
@[simp] theorem commitPixel_dataSelect : (s.commitPixel w).dataSelect = s.dataSelect := rfl
@[simp] theorem commitPixel_cmd : (s.commitPixel w).cmd = s.cmd := rfl
@[simp] theorem commitPixel_pbuf : (s.commitPixel w).pbuf = s.pbuf := rfl
@[simp] theorem commitPixel_xWindow : (s.commitPixel w).xWindow = s.xWindow := rfl
@[simp] theorem commitPixel_yWindow : (s.commitPixel w).yWindow = s.yWindow := rfl
@[simp] theorem commitPixel_x : (s.commitPixel w).x = nextColumn s.xWindow s.x := rfl
@[simp] theorem commitPixel_y : (s.commitPixel w).y = nextRow s.xWindow s.yWindow s.x s.y := rfl
@[simp] theorem commitPixel_orientation : (s.commitPixel w).orientation = s.orientation := rfl
@[simp] theorem commitPixel_displayEnabled : (s.commitPixel w).displayEnabled = s.displayEnabled := rfl
@[simp] theorem commitPixel_inverted : (s.commitPixel w).inverted = s.inverted := rfl
@[simp] theorem commitPixel_fb : (s.commitPixel w).fb = s.fb.set s.device s.x s.y (decodePixel s.device.layout w) := rfl
@[simp] theorem commitPixel_oobSeen : (s.commitPixel w).oobSeen = (s.oobSeen || !inGrid s.device s.x s.y) := rfl
@[simp] theorem commitPixel_ops : (s.commitPixel w).ops = s.ops := rfl
@[simp] theorem commitPixel_replies : (s.commitPixel w).replies = s.replies := rfl

end

section
variable (s : State)

@[simp] theorem popGroup_device : (s.popGroup).device = s.device := rfl
@[simp] theorem popGroup_chipSelect : (s.popGroup).chipSelect = s.chipSelect := rfl
@[simp] theorem popGroup_dataSelect : (s.popGroup).dataSelect = s.dataSelect := rfl
@[simp] theorem popGroup_cmd : (s.popGroup).cmd = s.cmd := rfl
@[simp] theorem popGroup_pbuf : (s.popGroup).pbuf = s.pbuf.dropLast.dropLast.dropLast := rfl
@[simp] theorem popGroup_xWindow : (s.popGroup).xWindow = s.xWindow := rfl
@[simp] theorem popGroup_yWindow : (s.popGroup).yWindow = s.yWindow := rfl
@[simp] theorem popGroup_x : (s.popGroup).x = s.x := rfl
@[simp] theorem popGroup_y : (s.popGroup).y = s.y := rfl
@[simp] theorem popGroup_orientation : (s.popGroup).orientation = s.orientation := rfl
@[simp] theorem popGroup_displayEnabled : (s.popGroup).displayEnabled = s.displayEnabled := rfl
@[simp] theorem popGroup_inverted : (s.popGroup).inverted = s.inverted := rfl
@[simp] theorem popGroup_fb : (s.popGroup).fb = s.fb := rfl
@[simp] theorem popGroup_oobSeen : (s.popGroup).oobSeen = s.oobSeen := rfl
@[simp] theorem popGroup_ops : (s.popGroup).ops = s.ops := rfl
@[simp] theorem popGroup_replies : (s.popGroup).replies = s.replies := rfl

end

section
variable (s : State) (rest : List HostOp)

@[simp] theorem takeOp_device : (s.takeOp rest).device = s.device := rfl
@[simp] theorem takeOp_chipSelect : (s.takeOp rest).chipSelect = s.chipSelect := rfl
@[simp] theorem takeOp_dataSelect : (s.takeOp rest).dataSelect = s.dataSelect := rfl
@[simp] theorem takeOp_cmd : (s.takeOp rest).cmd = s.cmd := rfl
@[simp] theorem takeOp_pbuf : (s.takeOp rest).pbuf = s.pbuf := rfl
@[simp] theorem takeOp_xWindow : (s.takeOp rest).xWindow = s.xWindow := rfl
@[simp] theorem takeOp_yWindow : (s.takeOp rest).yWindow = s.yWindow := rfl
@[simp] theorem takeOp_x : (s.takeOp rest).x = s.x := rfl
@[simp] theorem takeOp_y : (s.takeOp rest).y = s.y := rfl
@[simp] theorem takeOp_orientation : (s.takeOp rest).orientation = s.orientation := rfl
@[simp] theorem takeOp_displayEnabled : (s.takeOp rest).displayEnabled = s.displayEnabled := rfl
@[simp] theorem takeOp_inverted : (s.takeOp rest).inverted = s.inverted := rfl
@[simp] theorem takeOp_fb : (s.takeOp rest).fb = s.fb := rfl
@[simp] theorem takeOp_oobSeen : (s.takeOp rest).oobSeen = s.oobSeen := rfl
@[simp] theorem takeOp_ops : (s.takeOp rest).ops = rest := rfl
@[simp] theorem takeOp_replies : (s.takeOp rest).replies = s.replies := rfl

end

@[simp] theorem discardData_eq (s : State) (b : Byte) : s.discardData b = s := rfl

end Sys2Proof.Machine
end

