-- ==== Sys2Proof/Laws/Step.lean ====
section
/-! SUPPORT. What one step can do, said once: the equations of `step` and `perform`, what no received byte
changes, and the effect of each received byte by the current command. -/

namespace Sys2Proof.Machine

theorem step_idle {s : State} (h : s.ops = []) : step s = .next s := by simp [step, h]

theorem step_op {s : State} {op : HostOp} {rest : List HostOp} (h : s.ops = op :: rest) :
    step s = perform op (s.takeOp rest) := by simp [step, h]

theorem writeByte_deselected {s : State} (h : s.chipSelect = .high) (b : Byte) : writeByte b s = .next s := by
  simp [writeByte, State.presented, h]

theorem writeByte_command {s : State} (h : s.chipSelect = .low) (hd : s.dataSelect = .low) (b : Byte) :
    writeByte b s = exec (rowOf b .command) s := by simp [writeByte, State.presented, h, hd]

theorem writeByte_data {s : State} (h : s.chipSelect = .low) (hd : s.dataSelect = .high) (b : Byte) :
    writeByte b s = exec (rowOf s.cmd (.data b)) s := by simp [writeByte, State.presented, h, hd]

/-- Everything a command byte of the row `i` can do: the latch of R152, and the one further write of R153. -/
theorem exec_command_cases (op : Byte) (s : State) :
    exec (rowOf op .command) s = .next
      (if op = 0x20#8 then (s.latchCommand op).setInverted false
       else if op = 0x21#8 then (s.latchCommand op).setInverted true
       else if op = 0x28#8 then (s.latchCommand op).setDisplayEnabled false
       else if op = 0x29#8 then (s.latchCommand op).setDisplayEnabled true
       else if op = 0x2C#8 then (s.latchCommand op).setCursor s.xWindow.start s.yWindow.start
       else s.latchCommand op) := by
  rcases rowOf_cases op .command with h | h | h | h | h | h | h | h | ⟨h, e⟩
  iterate 8 (rw [h.2, h.1]; rfl)
  rw [e]
  simp only [recognisedOpcodes, List.mem_cons, List.not_mem_nil, or_false, not_or] at h
  simp [exec, execOther, h]

/-- Everything a data byte can do, by the current command (R154). -/
theorem exec_data_cases (cmd b : Byte) (s : State) :
    exec (rowOf cmd (.data b)) s = .next
      (if cmd = 0x2A#8 then
         if s.pbuf.length < 3 then s.pushParam b else s.popGroup.setXWindow (windowOf s.pbuf b)
       else if cmd = 0x2B#8 then
         if s.pbuf.length < 3 then s.pushParam b else s.popGroup.setYWindow (windowOf s.pbuf b)
       else if cmd = 0x2C#8 then
         if s.pbuf.length = 0 then s.pushParam b
         else s.popParam.commitPixel (joinBytes (newest s.pbuf) b)
       else if cmd = 0x36#8 then s.setOrientation b
       else s) := by
  rcases rowOf_cases cmd (.data b) with h | h | h | h | h | h | h | h | ⟨h, e⟩
  · rw [h.2, h.1]; rfl
  · rw [h.2, h.1]; rfl
  · rw [h.2, h.1]; rfl
  · rw [h.2, h.1]; rfl
  · rw [h.2, h.1]; simp only [exec, execCaset]; split <;> rfl
  · rw [h.2, h.1]; simp only [exec, execPaset]; split <;> simp
  · rw [h.2, h.1]; simp only [exec, execRamwr]; split <;> simp
  · rw [h.2, h.1]; rfl
  · rw [e]
    simp only [recognisedOpcodes, List.mem_cons, List.not_mem_nil, or_false, not_or] at h
    simp [exec, execOther, h]

/-- Everything one step can do: nothing to do, a latch set, an answer given, a byte ignored, or a received
command or data byte run by its row. -/
theorem step_cases {s t : State} (h : step s = .next t) :
    t = s ∨ ∃ op rest, s.ops = op :: rest ∧
      ((∃ l, op = .csSet l ∧ t = (s.takeOp rest).csSet l) ∨
       (∃ l, op = .dsSet l ∧ t = (s.takeOp rest).dsSet l) ∨
       (∃ r, isRead op = true ∧ t = (s.takeOp rest).reply r) ∨
       (∃ b, op = .writeByte b ∧ s.chipSelect = .high ∧ t = s.takeOp rest) ∨
       (∃ b, op = .writeByte b ∧ s.chipSelect = .low ∧ s.dataSelect = .low ∧
         exec (rowOf b .command) (s.takeOp rest) = .next t) ∨
       (∃ b, op = .writeByte b ∧ s.chipSelect = .low ∧ s.dataSelect = .high ∧
         exec (rowOf s.cmd (.data b)) (s.takeOp rest) = .next t)) := by
  cases hops : s.ops with
  | nil => rw [step_idle hops] at h; cases h; exact .inl rfl
  | cons op rest =>
    rw [step_op hops] at h
    refine .inr ⟨op, rest, rfl, ?_⟩
    cases op with
    | csSet l => cases h; exact .inl ⟨l, rfl, rfl⟩
    | dsSet l => cases h; exact .inr (.inl ⟨l, rfl, rfl⟩)
    | csGet | dsGet | snapshot => cases h; exact .inr (.inr (.inl ⟨_, rfl, rfl⟩))
    | writeByte b =>
      refine .inr (.inr (.inr ?_))
      simp only [perform] at h
      cases hc : s.chipSelect with
      | high =>
        rw [writeByte_deselected (by simpa)] at h
        cases h
        exact .inl ⟨b, rfl, rfl, rfl⟩
      | low =>
        refine .inr ?_
        cases hd : s.dataSelect with
        | low =>
          rw [writeByte_command (by simpa) (by simpa)] at h
          exact .inl ⟨b, rfl, rfl, rfl, h⟩
        | high =>
          rw [writeByte_data (by simpa) (by simpa)] at h
          exact .inr ⟨b, rfl, rfl, rfl, h⟩

theorem receives_command {s : State} {b : Byte} {rest : List HostOp} (h : s.ops = .writeByte b :: rest)
    (hc : s.chipSelect = .low) (hd : s.dataSelect = .low) : s.Receives (rowOf b .command) :=
  ⟨b, rest, h, by simp [State.presented, hc, hd]⟩

theorem receives_data {s : State} {b : Byte} {rest : List HostOp} (h : s.ops = .writeByte b :: rest)
    (hc : s.chipSelect = .low) (hd : s.dataSelect = .high) : s.Receives (rowOf s.cmd (.data b)) :=
  ⟨b, rest, h, by simp [State.presented, hc, hd]⟩

end Sys2Proof.Machine
end

