-- ==== Sys2Proof/Tests/Slice0.lean ====
section
/-! SUPPORT. The model's own tests. Expected results are the spec's: the worked examples of the rules and the
vectors of 95_test_vectors.md, named in each comment. The second half shows, for every obligation with
hypotheses, a concrete state that meets them. -/

namespace Sys2Proof.Tests

open Sys2Proof Sys2Proof.Machine

/-- The state an outcome goes on with. -/
def nextOf : Host.Outcome State Fault Refusal → Option State
  | .next s    => some s
  | .fault _   => none
  | .refused _ => none

/-- A selected device after reset, with one operation to come. -/
def sel (w h : Nat) (l : PixelLayout) (ds : Level) (op : HostOp) : State :=
  { State.resetFor ⟨w, h, l⟩ with chipSelect := .low, dataSelect := ds, ops := [op] }

/-- The 8 x 8, layout B device of most vectors, about to receive the command byte `b`. -/
def cmd8 (b : Byte) : State := sel 8 8 .B .low (.writeByte b)

/-- The same device under the command `c` with the buffer `p`, about to receive the data byte `b`. -/
def dat8 (c : Byte) (p : List Byte) (b : Byte) : State :=
  { sel 8 8 .B .high (.writeByte b) with cmd := c, pbuf := p }

/-! ## Words written out bit by bit (30_encoding.md R90, R91, R104) -/

theorem test_decode_invoff : decode 0#8 ⟨.low, .low, 0b00100000#8⟩ = .instr (.invoff .command) := by decide
theorem test_decode_invon : decode 0#8 ⟨.low, .low, 0b00100001#8⟩ = .instr (.invon .command) := by decide
theorem test_decode_dispoff : decode 0#8 ⟨.low, .low, 0b00101000#8⟩ = .instr (.dispoff .command) := by decide
theorem test_decode_dispon : decode 0#8 ⟨.low, .low, 0b00101001#8⟩ = .instr (.dispon .command) := by decide
theorem test_decode_caset : decode 0#8 ⟨.low, .low, 0b00101010#8⟩ = .instr (.caset .command) := by decide
theorem test_decode_paset : decode 0#8 ⟨.low, .low, 0b00101011#8⟩ = .instr (.paset .command) := by decide
theorem test_decode_ramwr : decode 0#8 ⟨.low, .low, 0b00101100#8⟩ = .instr (.ramwr .command) := by decide
theorem test_decode_madctl : decode 0#8 ⟨.low, .low, 0b00110110#8⟩ = .instr (.madctl .command) := by decide
/-- V123: 0x2E is not RAMWR. -/
theorem test_decode_other : decode 0x2C#8 ⟨.low, .low, 0x2E#8⟩ = .instr (.other 0x2E#8 .command) := by decide
/-- V46: a data byte equal to an opcode is data of the current command. -/
theorem test_decode_data : decode 0x2C#8 ⟨.low, .high, 0x29#8⟩ = .instr (.ramwr (.data 0x29#8)) := by decide
theorem test_decode_deselected : decode 0x2C#8 ⟨.high, .low, 0x28#8⟩ = .rejected .notReceived := by decide
theorem test_table_word : decodeTableWord 8 0x36 = some (.madctl .command) := by decide
theorem test_table_word_other : decodeTableWord 8 0 = some (.other 0x00#8 .command) := by decide
theorem test_table_word_too_long : decodeTableWord 16 0x2A = none := by decide

/-! ## Ill-formed terms are refused -/

theorem test_other_refuses_ramwr : (Instr.other 0x2C#8 .command).wellFormed = false := by decide
theorem test_other_refuses_invoff_data : (Instr.other 0x20#8 (.data 7#8)).wellFormed = false := by decide
theorem test_other_takes_nop : (Instr.other 0x00#8 .command).wellFormed = true := by decide

/-! ## The codec (V5, V12, V13, V17, V20) -/

theorem test_decodeA_V5 : decodeA 0xFFFF#16 = ⟨15, 31, 15⟩ := by decide
theorem test_decodeB_V5 : decodeB 0xFFFF#16 = ⟨248, 248, 248⟩ := by decide
theorem test_decodeB_V12 : decodeB 0x0400#16 = ⟨0, 0, 0⟩ := by decide
theorem test_decodeA_V13 : decodeA 0x07E0#16 = ⟨3, 30, 0⟩ := by decide
theorem test_decodeA_V17 : decodeA 0x1234#16 = ⟨9, 3, 4⟩ := by decide
theorem test_decodeB_V17 : decodeB 0x1234#16 = ⟨16, 136, 160⟩ := by decide
theorem test_decodeB_V20 : decodeB 0xABCD#16 = ⟨168, 240, 104⟩ := by decide

/-! ## The gate, the latches and the ports -/

/-- V40: a byte presented while deselected is ignored. -/
theorem test_gate_V40 :
    (nextOf (step { cmd8 0x28#8 with chipSelect := .high })).map (fun t => (t.cmd, t.displayEnabled)) =
      some (0x00#8, true) := by decide
/-- V45: nor is it counted as the second half of a pixel. -/
theorem test_gate_V45 :
    (nextOf (step { dat8 0x2C#8 [0x12#8] 0x34#8 with chipSelect := .high })).map (fun t => (t.pbuf, t.fb)) =
      some ([0x12#8], []) := by decide
/-- V34: setting one latch does not move the other. -/
theorem test_dsSet_V34 :
    (nextOf (step { State.resetFor ⟨8, 8, .B⟩ with ops := [.dsSet .low] })).map
      (fun t => (t.chipSelect, t.dataSelect)) = some (.high, .low) := by decide
/-- R142: after RESET `CS_GET` returns `High`. -/
theorem test_csGet : (nextOf (step { State.resetFor ⟨8, 8, .B⟩ with ops := [.csGet] })).map (·.replies) =
    some [.chipSelect .high] := by decide
/-- R131: the snapshot of a 2 x 1 device straight after RESET. -/
theorem test_snapshot_R131 :
    (nextOf (step { State.resetFor ⟨2, 1, .B⟩ with ops := [.snapshot] })).map (·.replies) =
      some [.snapshot ⟨2, 1, [⟨0, 0, 0⟩, ⟨0, 0, 0⟩], true, false⟩] := by decide

/-! ## Display control -/

/-- V51, from an inverted display: INVOFF clears the flag. -/
theorem test_invoff_V51 :
    (nextOf (step { cmd8 0x20#8 with inverted := true })).map (fun t => (t.cmd, t.inverted)) =
      some (0x20#8, false) := by decide
/-- V54: the flags are independent. -/
theorem test_invon_V54 :
    (nextOf (step { cmd8 0x21#8 with displayEnabled := false })).map (fun t => (t.displayEnabled, t.inverted)) =
      some (false, true) := by decide
/-- V53. -/
theorem test_dispoff_V53 :
    (nextOf (step (cmd8 0x28#8))).map (fun t => (t.cmd, t.displayEnabled)) = some (0x28#8, false) := by decide
/-- S4: DISPOFF then DISPON leaves the display on. -/
theorem test_dispon_S4 :
    (nextOf (step { cmd8 0x29#8 with displayEnabled := false })).map (·.displayEnabled) = some true := by decide
/-- V56: 0x28 as data is not DISPOFF. -/
theorem test_dispon_data_V56 :
    (nextOf (step (dat8 0x29#8 [] 0x28#8))).map (fun t => (t.cmd, t.displayEnabled, t.pbuf)) =
      some (0x29#8, true, []) := by decide

/-! ## Window set -/

/-- V44: the same opcode still clears the buffer. -/
theorem test_caset_V44 :
    (nextOf (step { cmd8 0x2A#8 with cmd := 0x2A#8, pbuf := [0x00#8, 0x0A#8] })).map
      (fun t => (t.cmd, t.pbuf, t.xWindow)) = some (0x2A#8, [], ⟨0, 8⟩) := by decide
/-- V63: big-endian, no validation. -/
theorem test_caset_V63 :
    (nextOf (step (dat8 0x2A#8 [0x12#8, 0x34#8, 0xAB#8] 0xCD#8))).map
      (fun t => (t.xWindow, t.yWindow, t.pbuf)) = some (⟨4660, 43981⟩, ⟨0, 8⟩, []) := by decide
/-- V64. -/
theorem test_paset_V64 :
    (nextOf (step (dat8 0x2B#8 [0x00#8, 0x05#8, 0x00#8] 0x14#8))).map
      (fun t => (t.xWindow, t.yWindow, t.pbuf)) = some (⟨0, 8⟩, ⟨5, 20⟩, []) := by decide
/-- V61: the third byte only accumulates. -/
theorem test_caset_V61 :
    (nextOf (step (dat8 0x2A#8 [0x00#8, 0x0A#8] 0x00#8))).map (fun t => (t.xWindow, t.pbuf)) =
      some (⟨0, 8⟩, [0x00#8, 0x0A#8, 0x00#8]) := by decide

/-! ## Memory write -/

/-- S2: after windows (10,50) and (5,20) RAMWR puts the cursor at (10,5). -/
theorem test_ramwr_S2 :
    (nextOf (step { cmd8 0x2C#8 with xWindow := ⟨10, 50⟩, yWindow := ⟨5, 20⟩, pbuf := [1#8] })).map
      (fun t => (t.cmd, t.pbuf, t.x, t.y)) = some (0x2C#8, [], 10, 5) := by decide
/-- V82: the first pixel. -/
theorem test_ramwr_V82 :
    (nextOf (step (dat8 0x2C#8 [0xF8#8] 0x00#8))).map (fun t => (t.pbuf, t.x, t.y, t.fb)) =
      some ([], 1, 0, [(0, ⟨248, 0, 0⟩)]) := by decide
/-- R193: from (6,6) in the windows (0,7), (0,7) one commit gives (0,0). -/
theorem test_ramwr_wraps_R193 :
    (nextOf (step { dat8 0x2C#8 [0xF8#8] 0x00#8 with
      xWindow := ⟨0, 7⟩, yWindow := ⟨0, 7⟩, x := 6, y := 6 })).map (fun t => (t.x, t.y)) = some (0, 0) := by decide
/-- P4: a dropped write on a 4 x 2, layout A device; the cell a linear index would have hit stays black. -/
theorem test_ramwr_dropped_P4 :
    (nextOf (step { sel 4 2 .A .high (.writeByte 0x00#8) with
      cmd := 0x2C#8, pbuf := [0x02#8], xWindow := ⟨1, 5⟩, yWindow := ⟨0, 1⟩, x := 4, y := 0 })).map
      (fun t => (t.x, t.y, t.fb, t.oobSeen)) = some (1, 0, [], true) := by decide
/-- V92: `0xFFFF +16 1 = 0`. -/
theorem test_ramwr_modulo_V92 :
    (nextOf (step { dat8 0x2C#8 [0x00#8] 0x00#8 with xWindow := ⟨65535, 1⟩, x := 65535 })).map
      (fun t => (t.x, t.y)) = some (0, 0) := by decide

/-! ## Access control and OTHER -/

/-- V107. -/
theorem test_madctl_V107 :
    (nextOf (step (dat8 0x36#8 [] 0xA8#8))).map (·.orientation) = some ⟨true, false, true, false⟩ := by decide
/-- V105: the low nibble is ignored, and every flag is written. -/
theorem test_madctl_V105 :
    (nextOf (step { dat8 0x36#8 [] 0x0F#8 with orientation := ⟨true, true, true, true⟩ })).map (·.orientation) =
      some ⟨false, false, false, false⟩ := by decide
/-- V121: 0x01 is latched and is not a reset. -/
theorem test_other_V121 :
    (nextOf (step { cmd8 0x01#8 with inverted := true, xWindow := ⟨2, 6⟩ })).map
      (fun t => (t.cmd, t.inverted, t.xWindow)) = some (0x01#8, true, ⟨2, 6⟩) := by decide
/-- V125: the pending byte is discarded. -/
theorem test_other_V125 :
    (nextOf (step { cmd8 0x22#8 with cmd := 0x2C#8, pbuf := [0xF8#8] })).map (fun t => (t.cmd, t.pbuf)) =
      some (0x22#8, []) := by decide

/-! ## The memory's canonical form -/

theorem test_write_black_removes : Framebuffer.write [(3, ⟨1, 2, 3⟩), (7, ⟨4, 5, 6⟩)] 3 Pixel.black =
    [(7, ⟨4, 5, 6⟩)] := by decide
theorem test_write_inserts_in_order : Framebuffer.write [(3, ⟨1, 2, 3⟩), (7, ⟨4, 5, 6⟩)] 5 ⟨9, 9, 9⟩ =
    [(3, ⟨1, 2, 3⟩), (5, ⟨9, 9, 9⟩), (7, ⟨4, 5, 6⟩)] := by decide

/-! ## From reset, the first instruction -/

theorem test_fetch_caset : (nextOf (step (State.reset.withFetchWord 8 0x2A))).map (·.cmd) = some 0x2A#8 := by
  decide
theorem test_fetch_ramwr :
    (nextOf (step (State.reset.withFetchWord 8 0x2C))).map (fun t => (t.cmd, t.x, t.y)) =
      some (0x2C#8, 0, 0) := by decide

/-! ## Witnesses: the hypotheses of each obligation are met -/

/-- EncodeThenDecodeGivesTheInstruction, for a data byte and for an OTHER opcode. -/
theorem witness_encode :
    (Instr.caset (.data 5#8)).wellFormed = true ∧ (0x2A#8 : Byte) = (Instr.caset (.data 5#8)).opcode ∧
    (Instr.other 0xFF#8 .command).wellFormed = true := by decide
/-- DecodeThenEncodeGivesTheTriple. -/
theorem witness_decode : decode 0x2C#8 ⟨.low, .high, 1#8⟩ = .instr (.ramwr (.data 1#8)) := by decide
/-- StepRunsTheDecodedInstruction. -/
theorem witness_step_runs :
    (cmd8 0x2C#8).ops = [.writeByte 0x2C#8] ∧
    decode (cmd8 0x2C#8).cmd ⟨(cmd8 0x2C#8).chipSelect, (cmd8 0x2C#8).dataSelect, 0x2C#8⟩ =
      .instr (.ramwr .command) := by decide
/-- DeselectedByteChangesNothing. -/
theorem witness_deselected :
    { cmd8 1#8 with chipSelect := Level.high }.chipSelect = .high ∧
    { cmd8 1#8 with chipSelect := Level.high }.ops = [.writeByte 1#8] := by decide
/-- CsSetWritesOnlyChipSelect, DsSetWritesOnlyDataSelect, both clauses of LatchReadsReturnTheLatches,
SnapshotReturnsTheStoredGrid. -/
theorem witness_host_operations :
    (sel 8 8 .B .low (.csSet .high)).ops = .csSet .high :: [] ∧
    (sel 8 8 .B .low (.dsSet .high)).ops = .dsSet .high :: [] ∧
    (sel 8 8 .B .low .csGet).ops = .csGet :: [] ∧ (sel 8 8 .B .low .dsGet).ops = .dsGet :: [] ∧
    (sel 8 8 .B .low .snapshot).ops = .snapshot :: [] := by decide
/-- NothingHappensBetweenOperations. -/
theorem witness_idle : State.reset.ops = [] := rfl
/-- OtherOpcodeOnlyLatches and the last clause of UnusedDataBytesAreDiscarded, at both ends of the range. -/
theorem witness_other :
    (Instr.other 0x00#8 .command).wellFormed = true ∧ (Instr.other 0xFF#8 (.data 0#8)).wellFormed = true := by
  decide
/-- EveryCommandByteIsLatched. -/
theorem witness_command_byte :
    (cmd8 0x01#8).chipSelect = .low ∧ (cmd8 0x01#8).dataSelect = .low ∧
    (cmd8 0x01#8).ops = .writeByte 0x01#8 :: [] := by decide
/-- CommandByteDiscardsAnIncompleteGroup, with a group in the buffer and an instruction other than RAMWR. -/
theorem witness_discard :
    (Instr.caset .command).role = .command ∧ Instr.caset .command ≠ .ramwr .command ∧
    (dat8 0x2C#8 [0xF8#8] 0#8).pbuf ≠ [] := by decide
/-- FirstThreeWindowBytesAccumulate, at the last length. -/
theorem witness_accumulate : (dat8 0x2A#8 [1#8, 2#8] 3#8).pbuf.length < 3 := by decide
/-- FourthCasetByteSetsTheColumnWindow, FourthPasetByteSetsTheRowWindow. -/
theorem witness_fourth : (dat8 0x2A#8 [1#8, 2#8, 3#8] 4#8).pbuf = [1#8, 2#8, 3#8] := by decide
/-- FirstPixelByteIsHeld. -/
theorem witness_first_pixel_byte : (dat8 0x2C#8 [] 1#8).pbuf = [] := by decide
/-- PixelCommitWritesTheCursorCell: the last writable column and the first dropped one. -/
theorem witness_commit :
    (dat8 0x2C#8 [1#8] 1#8).fb.wf ∧ (dat8 0x2C#8 [1#8] 1#8).pbuf = [1#8] ∧
    ((7 : Word).toNat < (dat8 0x2C#8 [1#8] 1#8).device.width) ∧
    ¬ ((8 : Word).toNat < (dat8 0x2C#8 [1#8] 1#8).device.width) := by decide
/-- PixelCommitAdvancesTheCursor: no wrap, a column wrap, a wrap of both, in the windows (0,8), (0,8). -/
theorem witness_advance :
    ((6 : Word).toNat + 1) % 65536 ≠ (cmd8 0#8).xWindow.stop.toNat ∧
    ((7 : Word).toNat + 1) % 65536 = (cmd8 0#8).xWindow.stop.toNat ∧
    ((6 : Word).toNat + 1) % 65536 ≠ (cmd8 0#8).yWindow.stop.toNat ∧
    ((7 : Word).toNat + 1) % 65536 = (cmd8 0#8).yWindow.stop.toNat := by decide
/-- CmdAndBufferChangeOnlyByReceivedBytes, both clauses. -/
theorem witness_cmd_changes :
    ∃ t, step { cmd8 0x2B#8 with pbuf := [1#8], cmd := 0x2A#8 } = .next t ∧ t.cmd ≠ 0x2A#8 ∧ t.pbuf ≠ [1#8] :=
  ⟨_, rfl, by decide, by decide⟩
/-- WindowsChangeOnlyAtTheFourthByte, the column clause. -/
theorem witness_xwindow_changes :
    (dat8 0x2A#8 [0#8, 1#8, 0#8] 5#8).BufferInv ∧
    ∃ t, step (dat8 0x2A#8 [0#8, 1#8, 0#8] 5#8) = .next t ∧
      t.xWindow ≠ (dat8 0x2A#8 [0#8, 1#8, 0#8] 5#8).xWindow := ⟨by decide, _, rfl, by decide⟩
/-- WindowsChangeOnlyAtTheFourthByte, the row clause. -/
theorem witness_ywindow_changes :
    (dat8 0x2B#8 [0#8, 1#8, 0#8] 5#8).BufferInv ∧
    ∃ t, step (dat8 0x2B#8 [0#8, 1#8, 0#8] 5#8) = .next t ∧
      t.yWindow ≠ (dat8 0x2B#8 [0#8, 1#8, 0#8] 5#8).yWindow := ⟨by decide, _, rfl, by decide⟩
/-- CursorChangesOnlyByRamwr, CellsChangeOnlyByAPixelCommitAtTheCursor and StepKeepsTheInvariant. -/
theorem witness_commit_step :
    (dat8 0x2C#8 [0xF8#8] 0#8).Inv ∧
    ∃ t, step (dat8 0x2C#8 [0xF8#8] 0#8) = .next t ∧ t.x ≠ (dat8 0x2C#8 [0xF8#8] 0#8).x ∧
      t.fb.read 0 ≠ (dat8 0x2C#8 [0xF8#8] 0#8).fb.read 0 := ⟨by decide, _, rfl, by decide, by decide⟩
/-- DisplayFlagsChangeOnlyByTheirCommands, the clause of `inverted`. -/
theorem witness_inverted_changes : ∃ t, step (cmd8 0x21#8) = .next t ∧ t.inverted ≠ (cmd8 0x21#8).inverted :=
  ⟨_, rfl, by decide⟩
/-- DisplayFlagsChangeOnlyByTheirCommands, the clause of `display_enabled`. -/
theorem witness_display_changes :
    ∃ t, step (cmd8 0x28#8) = .next t ∧ t.displayEnabled ≠ (cmd8 0x28#8).displayEnabled :=
  ⟨_, rfl, by decide⟩
/-- OrientationLatchesAndDeviceHaveOneWriter, the clause of the orientation flags. -/
theorem witness_orientation_changes :
    ∃ t, step (dat8 0x36#8 [] 0x80#8) = .next t ∧ t.orientation ≠ (dat8 0x36#8 [] 0x80#8).orientation :=
  ⟨_, rfl, by decide⟩
/-- OrientationLatchesAndDeviceHaveOneWriter, the clauses of the latches. -/
theorem witness_latches_change :
    (∃ t, step (sel 8 8 .B .low (.csSet .high)) = .next t ∧ t.chipSelect ≠ .low) ∧
    (∃ t, step (sel 8 8 .B .low (.dsSet .high)) = .next t ∧ t.dataSelect ≠ .low) :=
  ⟨⟨_, rfl, by decide⟩, ⟨_, rfl, by decide⟩⟩
/-- ConstructionShowsABlackGrid, at the bounds of R5. -/
theorem witness_device : Device.WellFormed ⟨1, 65535, .A⟩ ∧ Device.WellFormed ⟨65535, 1, .B⟩ := by decide
/-- WindowPremiseExcludesDroppedWrites, at a RAMWR command byte with the window spanning the grid. -/
theorem witness_window_premise :
    (cmd8 0x2C#8).OnTarget ∧ (cmd8 0x2C#8).RamwrNext ∧ (cmd8 0x2C#8).WindowsInside ∧
    (nextOf (step (cmd8 0x2C#8))).isSome = true := by decide
/-- WindowStreamsSetTheirWindow, both clauses. -/
theorem witness_window_streams :
    { cmd8 0#8 with ops := casetOps ⟨1, 3⟩ }.chipSelect = .low ∧
    { cmd8 0#8 with ops := casetOps ⟨1, 3⟩ }.ops = casetOps ⟨1, 3⟩ ++ [] ∧
    { cmd8 0#8 with ops := pasetOps ⟨1, 3⟩ }.ops = pasetOps ⟨1, 3⟩ ++ [] := by decide
/-- WindowBytesCommitInGroupsOfFour, with six data bytes: one complete group and two bytes over. -/
theorem witness_groups :
    { cmd8 0#8 with ops := cmdOps 0x2A#8 ++ dataOps [0#8, 1#8, 0#8, 5#8, 0#8, 2#8] }.chipSelect = .low ∧
    (([0#8, 1#8, 0#8, 5#8, 0#8, 2#8] : List Byte).take (6 / 4 * 4)).reverse.take 4 =
      [5#8, 0#8, 1#8, 0#8] := by decide
/-- LastMadctlByteWins. -/
theorem witness_madctl_stream :
    { cmd8 0#8 with ops := cmdOps 0x36#8 ++ dataOps ([0xF0#8] ++ [0x00#8]) }.chipSelect = .low := by decide
/-- OddPixelByteIsLostAtTheNextCommand. -/
theorem witness_odd_pixel : (cmd8 0#8).chipSelect = .low := by decide
/-- DeselectedBurstLeavesTheCommandInProgress. -/
theorem witness_burst :
    { dat8 0x2C#8 [0xF8#8] 0#8 with
      ops := deselectOps ++ ([0x00#8].map HostOp.writeByte ++ (selectOps ++ [])) }.chipSelect = .low := by decide
/-- PixelStreamFollowsTheCursorLaw. -/
theorem witness_pixel_stream :
    { cmd8 0#8 with ops := ramwrOps ++ pixelsOps [0xF800#16] }.chipSelect = .low := by decide
/-- OnePeriodFillsTheWindowRowMajor, for a window of one column and two rows. -/
theorem witness_one_period :
    let s : State := { cmd8 0#8 with
      xWindow := ⟨7, 8⟩, yWindow := ⟨6, 8⟩, ops := ramwrOps ++ pixelsOps [0xF800#16, 0x07E0#16] }
    s.chipSelect = .low ∧ s.fb.wf ∧ s.WindowsInside ∧ s.xWindow.start.toNat + 1 = s.xWindow.stop.toNat ∧
      s.yWindow.start.toNat + 2 = s.yWindow.stop.toNat ∧ [0xF800#16, 0x07E0#16].length = 1 * 2 := by decide

end Sys2Proof.Tests
end

