-- ==== Sys2Proof/Proofs/Encoding.lean ====
section
/-! SUPPORT. The classification of R90, one equation per class, and the statements of 30_encoding.md. -/

namespace Sys2Proof

/-- `chip_select` is tested first: while it is `High` the level of `data_select` does not matter (R90). -/
@[simp] theorem classify_deselected (ds : Level) (b : Byte) :
    Triple.classify ⟨.high, ds, b⟩ = .notReceived := by cases ds <;> rfl

@[simp] theorem classify_command (b : Byte) : Triple.classify ⟨.low, .low, b⟩ = .command b := rfl

@[simp] theorem classify_data (b : Byte) : Triple.classify ⟨.low, .high, b⟩ = .data b := rfl

/-- Settles O3: each class has its equation for `classify` and for `decode`, and the two received classes
decode to the row of the byte itself and to the row of `cmd`. -/
theorem presentedBytesFallIntoThreeClasses : Obligations.PresentedBytesFallIntoThreeClasses := by
  unfold Obligations.PresentedBytesFallIntoThreeClasses
  intro cmd b ds
  have commandRow : ∃ i, decode cmd ⟨.low, .low, b⟩ = .instr i ∧ i.role = .command ∧ i.opcode = b :=
    ⟨rowOf b .command, decode_command cmd b, role_rowOf b _, opcode_rowOf b _⟩
  have dataRow : ∃ i, decode cmd ⟨.low, .high, b⟩ = .instr i ∧ i.role = .data b ∧ i.opcode = cmd :=
    ⟨rowOf cmd (.data b), decode_data cmd b, role_rowOf cmd _, opcode_rowOf cmd _⟩
  exact ⟨classify_deselected ds b, decode_deselected cmd b ds,
    classify_command b, commandRow, classify_data b, dataRow⟩

end Sys2Proof
end

