-- ==== Sys2Proof/Proofs/PixelCodec.lean ====
section
/-! SUPPORT. The bit fields of a pixel word as arithmetic (R96, R11), and the statement of layout A
(40_pixel_codec.md R120). -/

namespace Sys2Proof

open Machine

/-- A field that fits in a byte loses nothing when it is widened: it is the word divided by the weight of its
lowest bit, modulo the number of its values. -/
theorem field8_toNat (w : Word) (lo : Nat) {len : Nat} (hlen : len ≤ 8) :
    (field8 w lo len).toNat = w.toNat / 2 ^ lo % 2 ^ len := by
  rw [field8, BitVec.toNat_setWidth_of_le hlen, BitVec.extractLsb'_toNat, Nat.shiftRight_eq_div_pow]

/-- R120 with R122: the three fields of a layout A device. -/
theorem decodePixel_A (w : Word) : decodePixel .A w = ⟨field8 w 9 4, field8 w 4 5, field8 w 0 4⟩ := rfl

/-- Settles O31: each channel of layout A is one field of at most five bits, read as arithmetic by
`field8_toNat`. -/
theorem layoutADecodesFourFiveFour : Obligations.LayoutADecodesFourFiveFour := by
  unfold Obligations.LayoutADecodesFourFiveFour
  intro w
  have red : (field8 w 9 4).toNat = w.toNat / 512 % 16 := field8_toNat w 9 (by decide)
  have green : (field8 w 4 5).toNat = w.toNat / 16 % 32 := field8_toNat w 4 (by decide)
  have blue : (field8 w 0 4).toNat = w.toNat % 16 := by
    simpa using field8_toNat w 0 (len := 4) (by decide)
  rw [decodePixel_A]
  exact ⟨red, green, blue⟩

end Sys2Proof
end

