-- ==== Sys2Proof/Proofs/Framebuffer.lean ====
section
/-! SUPPORT. What the snapshot port shows of a state, and the two statements of 41_framebuffer.md that speak of
it (R131, R133). -/

namespace Sys2Proof

open Machine

/-- The pixel list of a snapshot has one entry for each cell (R131). -/
@[simp] theorem length_view_pixels (s : State) : s.view.pixels.length = cellCount s.device := by
  rw [State.view, List.length_map, List.length_range]

/-- Entry `idx` of the pixel list is the stored pixel of cell `idx` (R131). -/
theorem getElem?_view_pixels (s : State) {idx : Nat} (h : idx < cellCount s.device) :
    s.view.pixels[idx]? = some (s.fb.read idx) := by
  rw [State.view, List.getElem?_map, List.getElem?_range h, Option.map_some]

/-- A grid whose cells all read as black is shown as black pixels only (R131). -/
theorem view_pixels_of_read_black {s : State} (h : ∀ idx, s.fb.read idx = Pixel.black) :
    s.view.pixels = List.replicate (cellCount s.device) Pixel.black := by
  have black : s.fb.read = Function.const Nat Pixel.black := funext h
  rw [State.view, black, List.map_const, List.length_range]

/-- R131 as an equation of `step`: the answer is appended, and no field but `ops` and `replies` moves. -/
theorem step_snapshot {s : State} {rest : List HostOp} (h : s.ops = .snapshot :: rest) :
    step s = .next { s with ops := rest, replies := s.replies ++ [.snapshot s.view] } := by
  rw [step_op h]
  rfl

/-- Settles O12: the answer is `s.view`, whose pixel list is read off by length and by index. -/
theorem snapshotReturnsTheStoredGrid : Obligations.SnapshotReturnsTheStoredGrid := by
  unfold Obligations.SnapshotReturnsTheStoredGrid
  intro s rest h
  exact ⟨s.view, step_snapshot h, rfl, rfl, length_view_pixels s,
    fun _ hidx => getElem?_view_pixels s hidx, rfl, rfl⟩

/-- The types of the two open parameters keep the started device within the bounds of R5. -/
theorem wellFormed_config_device : Config.device.WellFormed := by
  have hw := Config.widthLessOne.isLt
  have hh := Config.heightLessOne.isLt
  simp only [Device.WellFormed, Config.device]
  omega

/-- After construction every cell reads as black: none is listed (R31, R133). -/
theorem read_resetFor (d : Device) (idx : Nat) : (State.resetFor d).fb.read idx = Pixel.black := rfl

/-- What a renderer sees straight after construction (R133); the bounds of R5 are not needed for it. -/
theorem view_resetFor (d : Device) :
    (State.resetFor d).view =
      { width := d.width, height := d.height, pixels := List.replicate (cellCount d) Pixel.black
        displayEnabled := true, inverted := false } := by
  have pixels : (State.resetFor d).view.pixels = List.replicate (cellCount d) Pixel.black :=
    view_pixels_of_read_black (read_resetFor d)
  rw [← pixels]
  rfl

/-- Settles O44: the black grid by `view_resetFor`, the bounds of the started device by the types of its
open parameters. -/
theorem constructionShowsABlackGrid : Obligations.ConstructionShowsABlackGrid := by
  unfold Obligations.ConstructionShowsABlackGrid
  exact ⟨fun d _ => view_resetFor d, wellFormed_config_device, rfl⟩

end Sys2Proof
end

