-- ==== Sys2Proof/Proofs/SignalLines.lean ====
section
/-! SUPPORT. The two set operations on the signal latches, as equations of `step`, and the statements of
42_signal_lines.md (R140, R141). -/

namespace Sys2Proof

open Machine

/-- R140 as an equation of `step`, in the named operations: the fields of the next state are read off by the
laws of `csSet` and `takeOp`. -/
theorem step_csSet {s : State} {l : Level} {rest : List HostOp} (h : s.ops = .csSet l :: rest) :
    step s = .next ((s.takeOp rest).csSet l) := by
  rw [step_op h]
  rfl

/-- R141 as an equation of `step`; `chip_select` is not consulted. -/
theorem step_dsSet {s : State} {l : Level} {rest : List HostOp} (h : s.ops = .dsSet l :: rest) :
    step s = .next ((s.takeOp rest).dsSet l) := by
  rw [step_op h]
  rfl

/-- The frame of a taken `CS_SET`: two fields are written. -/
theorem csSet_takeOp (s : State) (l : Level) (rest : List HostOp) :
    (s.takeOp rest).csSet l = { s with chipSelect := l, ops := rest } := rfl

/-- The frame of a taken `DS_SET`: two fields are written. -/
theorem dsSet_takeOp (s : State) (l : Level) (rest : List HostOp) :
    (s.takeOp rest).dsSet l = { s with dataSelect := l, ops := rest } := rfl

/-- Settles O9: the step is `csSet` on the state from which the operation was taken, and the two together
write `chipSelect` and `ops` only. -/
theorem csSetWritesOnlyChipSelect : Obligations.CsSetWritesOnlyChipSelect := by
  unfold Obligations.CsSetWritesOnlyChipSelect
  intro s l rest h
  rw [step_csSet h, csSet_takeOp]

/-- Settles O10: the step is `dsSet` on the state from which the operation was taken, whatever `chip_select`
holds, and the two together write `dataSelect` and `ops` only. -/
theorem dsSetWritesOnlyDataSelect : Obligations.DsSetWritesOnlyDataSelect := by
  unfold Obligations.DsSetWritesOnlyDataSelect
  intro s l rest h
  rw [step_dsSet h, dsSet_takeOp]

end Sys2Proof
end

