-- ==== Sys2Proof/Proofs/ByteDispatch.lean ====
section
/-! SUPPORT. The byte sink as an equation of `step` for a deselected byte and for a received command byte,
what every command byte latches, and the statements of 43_byte_dispatch.md (R151, R152). -/

namespace Sys2Proof

open Machine

/-- R151: the chip-select gate leaves of the step only that its operation was taken. -/
theorem step_writeByte_deselected {s : State} {b : Byte} {rest : List HostOp} (hc : s.chipSelect = .high)
    (h : s.ops = .writeByte b :: rest) : step s = .next (s.takeOp rest) := by
  rw [step_op h, perform]
  exact writeByte_deselected ((takeOp_chipSelect s rest).trans hc) b

/-- R150, R153: a received command byte runs the row it names, whatever command was in progress. -/
theorem step_writeByte_command {s : State} {b : Byte} {rest : List HostOp} (hc : s.chipSelect = .low)
    (hd : s.dataSelect = .low) (h : s.ops = .writeByte b :: rest) :
    step s = exec (rowOf b .command) (s.takeOp rest) := by
  rw [step_op h, perform]
  exact writeByte_command ((takeOp_chipSelect s rest).trans hc) ((takeOp_dataSelect s rest).trans hd) b

/-- R152: the further write that five of the rows make (R153) touches neither `cmd` nor `pbuf`. -/
theorem exec_command_latches (op : Byte) (s : State) :
    ∃ t, exec (rowOf op .command) s = .next t ∧ t.cmd = op ∧ t.pbuf = [] := by
  refine ⟨_, exec_command_cases op s, ?_⟩
  split_ifs
  · exact ⟨setInverted_cmd .., setInverted_pbuf ..⟩
  · exact ⟨setInverted_cmd .., setInverted_pbuf ..⟩
  · exact ⟨setDisplayEnabled_cmd .., setDisplayEnabled_pbuf ..⟩
  · exact ⟨setDisplayEnabled_cmd .., setDisplayEnabled_pbuf ..⟩
  · exact ⟨setCursor_cmd .., setCursor_pbuf ..⟩
  · exact ⟨latchCommand_cmd .., latchCommand_pbuf ..⟩

/-- Settles O8: the gate lets the byte do nothing, and taking an operation writes `ops` only. -/
theorem deselectedByteChangesNothing : Obligations.DeselectedByteChangesNothing := by
  unfold Obligations.DeselectedByteChangesNothing
  intro s b rest hc h
  rw [step_writeByte_deselected hc h, State.takeOp]

/-- Settles O21: the step runs the row of `b`, and every row latches its opcode at its command byte. -/
theorem everyCommandByteIsLatched : Obligations.EveryCommandByteIsLatched := by
  unfold Obligations.EveryCommandByteIsLatched
  intro b rest s hc hd h
  rw [step_writeByte_command hc hd h]
  exact exec_command_latches b (s.takeOp rest)

end Sys2Proof
end

