-- ==== Sys2Proof/Proofs/DisplayControl.lean ====
section
/-! SUPPORT. The four display commands at their command byte, as equations of `exec` in the named operations,
and the statements of 44_display_control.md (R165 to R168). -/

namespace Sys2Proof

open Machine

/-- R165 as an equation of `exec`. -/
theorem exec_invoff_command (s : State) :
    exec (.invoff .command) s = .next ((s.latchCommand 0x20#8).setInverted false) := rfl

/-- R166 as an equation of `exec`. -/
theorem exec_invon_command (s : State) :
    exec (.invon .command) s = .next ((s.latchCommand 0x21#8).setInverted true) := rfl

/-- R167 as an equation of `exec`. -/
theorem exec_dispoff_command (s : State) :
    exec (.dispoff .command) s = .next ((s.latchCommand 0x28#8).setDisplayEnabled false) := rfl

/-- R168 as an equation of `exec`. -/
theorem exec_dispon_command (s : State) :
    exec (.dispon .command) s = .next ((s.latchCommand 0x29#8).setDisplayEnabled true) := rfl

/-- The frame of a latched inversion command: three fields are written. -/
theorem setInverted_latchCommand (s : State) (op : Byte) (v : Bool) :
    (s.latchCommand op).setInverted v = { s with cmd := op, pbuf := [], inverted := v } := rfl

/-- The frame of a latched display-enable command: three fields are written. -/
theorem setDisplayEnabled_latchCommand (s : State) (op : Byte) (v : Bool) :
    (s.latchCommand op).setDisplayEnabled v = { s with cmd := op, pbuf := [], displayEnabled := v } := rfl

/-- Settles O14: INVOFF latches its opcode and then writes `inverted`, which together write three fields. -/
theorem invoffClearsInverted : Obligations.InvoffClearsInverted := by
  unfold Obligations.InvoffClearsInverted
  intro s
  rw [exec_invoff_command, setInverted_latchCommand]

/-- Settles O15: INVON has the frame of INVOFF, so the stored pixels keep their values. -/
theorem invonSetsInverted : Obligations.InvonSetsInverted := by
  unfold Obligations.InvonSetsInverted
  intro s
  rw [exec_invon_command, setInverted_latchCommand]

/-- Settles O16: DISPOFF latches its opcode and then writes `display_enabled`, which together write three
fields. -/
theorem dispoffClearsDisplayEnabled : Obligations.DispoffClearsDisplayEnabled := by
  unfold Obligations.DispoffClearsDisplayEnabled
  intro s
  rw [exec_dispoff_command, setDisplayEnabled_latchCommand]

/-- Settles O17: DISPON has the frame of DISPOFF. -/
theorem disponSetsDisplayEnabled : Obligations.DisponSetsDisplayEnabled := by
  unfold Obligations.DisponSetsDisplayEnabled
  intro s
  rw [exec_dispon_command, setDisplayEnabled_latchCommand]

end Sys2Proof
end

