-- ==== Sys2Proof/Proofs/WindowSet.lean ====
section
/-! SUPPORT. CASET and PASET as equations of `exec`, read off the laws of a step: the command byte, a byte that
the buffer takes, the byte that completes a group; and the statements of 45_window_set.md (R180 to R184), with
MADCTL's command byte (47_access_control.md R205). -/

namespace Sys2Proof

open Machine

/-- R180 as an equation of `exec`. -/
theorem exec_caset_command (s : State) : exec (.caset .command) s = .next (s.latchCommand 0x2A#8) :=
  exec_command_cases 0x2A#8 s

/-- R181 as an equation of `exec`. -/
theorem exec_paset_command (s : State) : exec (.paset .command) s = .next (s.latchCommand 0x2B#8) :=
  exec_command_cases 0x2B#8 s

/-- R205 as an equation of `exec`. -/
theorem exec_madctl_command (s : State) : exec (.madctl .command) s = .next (s.latchCommand 0x36#8) :=
  exec_command_cases 0x36#8 s

/-- The law of data bytes at the row CASET. -/
theorem exec_caset_data (b : Byte) (s : State) :
    exec (.caset (.data b)) s = .next
      (if s.pbuf.length < 3 then s.pushParam b else s.popGroup.setXWindow (windowOf s.pbuf b)) :=
  exec_data_cases 0x2A#8 b s

/-- The law of data bytes at the row PASET. -/
theorem exec_paset_data (b : Byte) (s : State) :
    exec (.paset (.data b)) s = .next
      (if s.pbuf.length < 3 then s.pushParam b else s.popGroup.setYWindow (windowOf s.pbuf b)) :=
  exec_data_cases 0x2B#8 b s

/-- R183: the three pops empty a buffer of three bytes and write nothing else. -/
theorem popGroup_of_three {s : State} {p1 p2 p3 : Byte} (h : s.pbuf = [p1, p2, p3]) :
    s.popGroup = { s with pbuf := [] } := by
  simp [State.popGroup, State.popParam, h]

/-- R183 as an equation of `exec`. -/
theorem exec_caset_fourth {s : State} {p1 p2 p3 : Byte} (b : Byte) (h : s.pbuf = [p1, p2, p3]) :
    exec (.caset (.data b)) s =
      .next { s with pbuf := [], xWindow := ⟨joinBytes p1 p2, joinBytes p3 b⟩ } := by
  have full : ¬ s.pbuf.length < 3 := by simp [h]
  rw [exec_caset_data, if_neg full, popGroup_of_three h, h, windowOf_three, State.setXWindow]

/-- R184 as an equation of `exec`. -/
theorem exec_paset_fourth {s : State} {p1 p2 p3 : Byte} (b : Byte) (h : s.pbuf = [p1, p2, p3]) :
    exec (.paset (.data b)) s =
      .next { s with pbuf := [], yWindow := ⟨joinBytes p1 p2, joinBytes p3 b⟩ } := by
  have full : ¬ s.pbuf.length < 3 := by simp [h]
  rw [exec_paset_data, if_neg full, popGroup_of_three h, h, windowOf_three, State.setYWindow]

/-- Settles O18: none of the three rows is among those that write further at their command byte, and the latch
writes `cmd` and `pbuf` only. -/
theorem casetPasetMadctlCommandBytesOnlyLatch : Obligations.CasetPasetMadctlCommandBytesOnlyLatch := by
  unfold Obligations.CasetPasetMadctlCommandBytesOnlyLatch
  intro s
  exact ⟨exec_caset_command s, exec_paset_command s, exec_madctl_command s⟩

/-- Settles O23: below three bytes both rows push, and the push writes `pbuf` only. -/
theorem firstThreeWindowBytesAccumulate : Obligations.FirstThreeWindowBytesAccumulate := by
  unfold Obligations.FirstThreeWindowBytesAccumulate
  intro b s h
  rw [exec_caset_data, exec_paset_data, if_pos h, if_pos h, State.pushParam]
  exact ⟨rfl, rfl⟩

/-- Settles O24: the committed window is the two big-endian pairs, whose values `joinBytes_toNat` gives. -/
theorem fourthCasetByteSetsTheColumnWindow : Obligations.FourthCasetByteSetsTheColumnWindow := by
  unfold Obligations.FourthCasetByteSetsTheColumnWindow
  intro p1 p2 p3 b s h
  exact ⟨⟨joinBytes p1 p2, joinBytes p3 b⟩, joinBytes_toNat p1 p2, joinBytes_toNat p3 b, exec_caset_fourth b h⟩

/-- Settles O25: the window of CASET's fourth byte, committed to the other axis. -/
theorem fourthPasetByteSetsTheRowWindow : Obligations.FourthPasetByteSetsTheRowWindow := by
  unfold Obligations.FourthPasetByteSetsTheRowWindow
  intro p1 p2 p3 b s h
  exact ⟨⟨joinBytes p1 p2, joinBytes p3 b⟩, joinBytes_toNat p1 p2, joinBytes_toNat p3 b, exec_paset_fourth b h⟩

end Sys2Proof
end

