-- ==== Sys2Proof/Proofs/MemoryWrite.lean ====
section
/-! SUPPORT. RAMWR as equations of `exec`, read off the laws of a step: the command byte and the byte that opens
a pixel pair; and their statements of 46_memory_write.md (R190, R191). -/

namespace Sys2Proof

open Machine

/-- R190 as an equation of `exec`: of the rows that write further at their command byte, RAMWR is the one that
loads the cursor. -/
theorem exec_ramwr_command (s : State) :
    exec (.ramwr .command) s =
      .next ((s.latchCommand 0x2C#8).setCursor s.xWindow.start s.yWindow.start) :=
  exec_command_cases 0x2C#8 s

/-- The law of data bytes at the row RAMWR. -/
theorem exec_ramwr_data (b : Byte) (s : State) :
    exec (.ramwr (.data b)) s = .next
      (if s.pbuf.length = 0 then s.pushParam b
       else s.popParam.commitPixel (joinBytes (newest s.pbuf) b)) :=
  exec_data_cases 0x2C#8 b s

/-- The frame of a latched command with the cursor load: four fields are written. -/
theorem setCursor_latchCommand (s : State) (op : Byte) (px py : Word) :
    (s.latchCommand op).setCursor px py = { s with cmd := op, pbuf := [], x := px, y := py } := rfl

/-- The first push writes `pbuf` only, which then holds the one byte (R191). -/
theorem pushParam_of_empty {s : State} (b : Byte) (h : s.pbuf = []) :
    s.pushParam b = { s with pbuf := [b] } := by
  rw [State.pushParam, h, List.nil_append]

/-- Settles O19: RAMWR latches its opcode and then loads the cursor with the window starts, which together write
four fields. -/
theorem ramwrCommandByteLoadsTheCursor : Obligations.RamwrCommandByteLoadsTheCursor := by
  unfold Obligations.RamwrCommandByteLoadsTheCursor
  intro s
  rw [exec_ramwr_command, setCursor_latchCommand]

/-- Settles O26: an empty buffer takes the byte, so the branch that commits a pixel is not reached. -/
theorem firstPixelByteIsHeld : Obligations.FirstPixelByteIsHeld := by
  unfold Obligations.FirstPixelByteIsHeld
  intro b s h
  have empty : s.pbuf.length = 0 := List.length_eq_zero_iff.mpr h
  rw [exec_ramwr_data, if_pos empty, pushParam_of_empty b h]

end Sys2Proof
end

