-- ==== Sys2Proof/Proofs/Run.lean ====
section
/-! SUPPORT. Runs taken apart: one step and the rest, and the induction over two runs of equal length. -/

namespace Sys2Proof.Machine

theorem run_succ {s t : State} (h : step s = .next t) (n : Nat) : run (n + 1) s = run n t := by
  rw [run, h]

/-- What one step keeps of a pair of states, runs of equal length keep: the induction of every statement that
compares two machines on the same operations. -/
theorem run_keeps_relation {R : State → State → Prop}
    (hstep : ∀ s s', R s s' → ∃ t t', step s = .next t ∧ step s' = .next t' ∧ R t t') (n : Nat) :
    ∀ s s', R s s' → ∃ t t', run n s = .next t ∧ run n s' = .next t' ∧ R t t' := by
  induction n with
  | zero => exact fun s s' h => ⟨s, s', rfl, rfl, h⟩
  | succ n ih =>
    intro s s' h
    obtain ⟨u, u', hu, hu', hR⟩ := hstep s s' h
    rw [run_succ hu, run_succ hu']
    exact ih u u' hR

end Sys2Proof.Machine
end

