-- ==== Sys2Proof/Proofs/AccessControl.lean ====
section
/-! SUPPORT. MADCTL's data byte as an equation of `exec`; the orientation flags through every operation, each of
which commutes with replacing the flags, but for the one that writes them; and the statements of
47_access_control.md (R206, R208). -/

namespace Sys2Proof.Machine

/-! ### The access-control byte -/

/-- R206 as an equation of `exec`. -/
theorem exec_madctl_data (m : Byte) (s : State) : exec (.madctl (.data m)) s = .next (s.setOrientation m) :=
  exec_data_cases 0x36#8 m s

/-- R94, R102: the four bits as arithmetic on the byte's value. -/
theorem orientationOf_eq (m : Byte) :
    orientationOf m =
      { mirrorY  := decide (m.toNat / 128 % 2 = 1)
        mirrorX  := decide (m.toNat / 64 % 2 = 1)
        axisSwap := decide (m.toNat / 32 % 2 = 1)
        scanSwap := decide (m.toNat / 16 % 2 = 1) } := by
  simp only [orientationOf, BitVec.getLsbD, Nat.testBit_eq_decide_div_mod_eq, Nat.reducePow]

/-- Settles O29: the byte's flags are the four bits, and `setOrientation` writes `orientation` only. -/
theorem madctlByteSetsAllOrientationFlags : Obligations.MadctlByteSetsAllOrientationFlags := by
  unfold Obligations.MadctlByteSetsAllOrientationFlags
  intro m s
  rw [exec_madctl_data, State.setOrientation, orientationOf_eq]

/-! ### Replacing the orientation flags -/

/-- The state with the orientation flags `o`, every other element as it was. -/
def State.withOrientation (o : Orientation) (s : State) : State := { s with orientation := o }

/-- Two states that are equal but for the orientation flags, at most. -/
def EqualButOrientation (s s' : State) : Prop := ∃ o, s' = s.withOrientation o

theorem equalButOrientation_refl (s : State) : EqualButOrientation s s := ⟨s.orientation, rfl⟩

section
variable (s : State) (o : Orientation)

/-! What a step reads is not changed. -/

@[simp] theorem withOrientation_chipSelect : (s.withOrientation o).chipSelect = s.chipSelect := rfl
@[simp] theorem withOrientation_dataSelect : (s.withOrientation o).dataSelect = s.dataSelect := rfl
@[simp] theorem withOrientation_cmd : (s.withOrientation o).cmd = s.cmd := rfl
@[simp] theorem withOrientation_pbuf : (s.withOrientation o).pbuf = s.pbuf := rfl
@[simp] theorem withOrientation_xWindow : (s.withOrientation o).xWindow = s.xWindow := rfl
@[simp] theorem withOrientation_yWindow : (s.withOrientation o).yWindow = s.yWindow := rfl
@[simp] theorem withOrientation_ops : (s.withOrientation o).ops = s.ops := rfl
@[simp] theorem withOrientation_view : (s.withOrientation o).view = s.view := rfl

/-! Each operation on a state with replaced flags: `commitPixel` holds the cursor advance, the bounds gate, the
linear index and the codec of R208. -/

@[simp] theorem takeOp_withOrientation (rest : List HostOp) :
    (s.withOrientation o).takeOp rest = (s.takeOp rest).withOrientation o := rfl
@[simp] theorem csSet_withOrientation (l : Level) :
    (s.withOrientation o).csSet l = (s.csSet l).withOrientation o := rfl
@[simp] theorem dsSet_withOrientation (l : Level) :
    (s.withOrientation o).dsSet l = (s.dsSet l).withOrientation o := rfl
@[simp] theorem reply_withOrientation (r : Reply) :
    (s.withOrientation o).reply r = (s.reply r).withOrientation o := rfl
@[simp] theorem latchCommand_withOrientation (b : Byte) :
    (s.withOrientation o).latchCommand b = (s.latchCommand b).withOrientation o := rfl
@[simp] theorem setInverted_withOrientation (v : Bool) :
    (s.withOrientation o).setInverted v = (s.setInverted v).withOrientation o := rfl
@[simp] theorem setDisplayEnabled_withOrientation (v : Bool) :
    (s.withOrientation o).setDisplayEnabled v = (s.setDisplayEnabled v).withOrientation o := rfl
@[simp] theorem setCursor_withOrientation (px py : Word) :
    (s.withOrientation o).setCursor px py = (s.setCursor px py).withOrientation o := rfl
@[simp] theorem pushParam_withOrientation (b : Byte) :
    (s.withOrientation o).pushParam b = (s.pushParam b).withOrientation o := rfl
@[simp] theorem popParam_withOrientation :
    (s.withOrientation o).popParam = s.popParam.withOrientation o := rfl
@[simp] theorem popGroup_withOrientation :
    (s.withOrientation o).popGroup = s.popGroup.withOrientation o := rfl
@[simp] theorem setXWindow_withOrientation (w : Window) :
    (s.withOrientation o).setXWindow w = (s.setXWindow w).withOrientation o := rfl
@[simp] theorem setYWindow_withOrientation (w : Window) :
    (s.withOrientation o).setYWindow w = (s.setYWindow w).withOrientation o := rfl
@[simp] theorem commitPixel_withOrientation (w : Word) :
    (s.withOrientation o).commitPixel w = (s.commitPixel w).withOrientation o := rfl

/-- R206: all four flags are written, so what they held is lost. -/
@[simp] theorem setOrientation_withOrientation (m : Byte) :
    (s.withOrientation o).setOrientation m = s.setOrientation m := rfl

/-! ### Two devices that differ in the orientation flags -/

/-- Every command byte commutes with replacing the flags. -/
theorem exec_command_withOrientation (op : Byte) :
    ∃ t, exec (rowOf op .command) s = .next t ∧
      exec (rowOf op .command) (s.withOrientation o) = .next (t.withOrientation o) := by
  refine ⟨_, exec_command_cases op s, ?_⟩
  simp [exec_command_cases, apply_ite (State.withOrientation o)]

/-- A data byte under MADCTL makes the two states equal; any other commutes with replacing the flags. -/
theorem exec_data_withOrientation (cmd b : Byte) :
    ∃ t t', exec (rowOf cmd (.data b)) s = .next t ∧
      exec (rowOf cmd (.data b)) (s.withOrientation o) = .next t' ∧ EqualButOrientation t t' := by
  refine ⟨_, _, exec_data_cases cmd b s, exec_data_cases cmd b (s.withOrientation o), ?_⟩
  by_cases h : cmd = 0x36#8
  · subst h
    simpa [setOrientation_withOrientation] using equalButOrientation_refl (s.setOrientation b)
  · refine ⟨o, ?_⟩
    rw [if_neg h, if_neg h, withOrientation_pbuf]
    simp only [apply_ite (State.withOrientation o), pushParam_withOrientation, popGroup_withOrientation,
      setXWindow_withOrientation, setYWindow_withOrientation, popParam_withOrientation,
      commitPixel_withOrientation]

/-- `WRITE_BYTE` reads of the state only the latches and `cmd` before it runs a row. -/
theorem writeByte_withOrientation (b : Byte) :
    ∃ t t', writeByte b s = .next t ∧ writeByte b (s.withOrientation o) = .next t' ∧
      EqualButOrientation t t' := by
  cases hc : s.chipSelect with
  | high =>
    rw [writeByte_deselected hc, writeByte_deselected ((withOrientation_chipSelect s o).trans hc)]
    exact ⟨s, _, rfl, rfl, o, rfl⟩
  | low =>
    have hc' : (s.withOrientation o).chipSelect = .low := (withOrientation_chipSelect s o).trans hc
    cases hd : s.dataSelect with
    | low =>
      obtain ⟨t, ht, ht'⟩ := exec_command_withOrientation s o b
      rw [writeByte_command hc hd, writeByte_command hc' ((withOrientation_dataSelect s o).trans hd)]
      exact ⟨t, _, ht, ht', o, rfl⟩
    | high =>
      rw [writeByte_data hc hd, writeByte_data hc' ((withOrientation_dataSelect s o).trans hd),
        withOrientation_cmd]
      exact exec_data_withOrientation s o s.cmd b

/-- R208 for one operation: no answer shows the flags and no write depends on them. -/
theorem perform_withOrientation (op : HostOp) :
    ∃ t t', perform op s = .next t ∧ perform op (s.withOrientation o) = .next t' ∧
      EqualButOrientation t t' := by
  cases op with
  | writeByte b => exact writeByte_withOrientation s o b
  | csSet l => exact ⟨_, _, rfl, rfl, o, csSet_withOrientation s o l⟩
  | dsSet l => exact ⟨_, _, rfl, rfl, o, dsSet_withOrientation s o l⟩
  | csGet | dsGet => exact ⟨_, _, rfl, rfl, o, reply_withOrientation s o _⟩
  | snapshot => exact ⟨_, _, rfl, by rw [perform, withOrientation_view], o, reply_withOrientation s o _⟩

end

/-- R208 for one step. -/
theorem step_keeps_equalButOrientation (s s' : State) (h : EqualButOrientation s s') :
    ∃ t t', step s = .next t ∧ step s' = .next t' ∧ EqualButOrientation t t' := by
  obtain ⟨o, rfl⟩ := h
  cases hops : s.ops with
  | nil => exact ⟨s, _, step_idle hops, step_idle ((withOrientation_ops s o).trans hops), o, rfl⟩
  | cons op rest =>
    rw [step_op hops, step_op ((withOrientation_ops s o).trans hops), takeOp_withOrientation]
    exact perform_withOrientation (s.takeOp rest) o op

/-- Settles O40: being equal but for the orientation flags is kept by one step of both devices, so by runs of
equal length. -/
theorem orientationFlagsAreNeverRead : Obligations.OrientationFlagsAreNeverRead := by
  unfold Obligations.OrientationFlagsAreNeverRead
  intro n s o
  obtain ⟨t, _, ht, ht', o', rfl⟩ :=
    run_keeps_relation step_keeps_equalButOrientation n s (s.withOrientation o) ⟨o, rfl⟩
  exact ⟨t, _, ht, ht', rfl⟩

end Sys2Proof.Machine
end

