-- ==== Sys2Proof/Proofs/Unrecognised.lean ====
section
/-! SUPPORT. The row OTHER, what a data byte does under a command that takes none, and the statements of
48_unrecognised.md (R215, R216). -/

namespace Sys2Proof

open Machine

/-- R104, R105: an opcode that may stand in an OTHER instruction is outside the eight, for either role. -/
theorem wellFormed_other_iff {v : Byte} {r : ByteRole} :
    (Instr.other v r).wellFormed = true ↔ v ∉ recognisedOpcodes := by
  simp [Instr.wellFormed]

/-- R104: the row of an opcode outside the eight is OTHER. -/
theorem rowOf_of_not_recognised {v : Byte} (r : ByteRole) (h : v ∉ recognisedOpcodes) :
    rowOf v r = .other v r := by
  rcases rowOf_cases v r with e | e | e | e | e | e | e | e | e
  iterate 8 exact absurd e.1.symm (ne_of_mem_of_not_mem (by decide) h)
  exact e.2

/-- R215 as an equation of `exec`: the latch of R152, with no further write. -/
theorem exec_other_command (v : Byte) (s : State) :
    exec (.other v .command) s = .next (s.latchCommand v) := rfl

/-- The four opcodes whose data bytes have an effect (R154, R216). -/
def dataOpcodes : List Byte := [0x2A#8, 0x2B#8, 0x2C#8, 0x36#8]

theorem dataOpcodes_subset_recognisedOpcodes : dataOpcodes ⊆ recognisedOpcodes := by decide

/-- R216: a data byte under any other current command changes nothing. -/
theorem exec_data_discarded {cmd : Byte} (h : cmd ∉ dataOpcodes) (b : Byte) (s : State) :
    exec (rowOf cmd (.data b)) s = .next s := by
  simp only [dataOpcodes, List.mem_cons, List.not_mem_nil, or_false, not_or] at h
  obtain ⟨caset, paset, ramwr, madctl⟩ := h
  rw [exec_data_cases, if_neg caset, if_neg paset, if_neg ramwr, if_neg madctl]

/-- R216 for the row OTHER: an opcode outside the eight is outside the four that take data bytes. -/
theorem exec_other_data {v : Byte} (h : v ∉ recognisedOpcodes) (b : Byte) (s : State) :
    exec (.other v (.data b)) s = .next s := by
  have takesNone : v ∉ dataOpcodes := fun hv => h (dataOpcodes_subset_recognisedOpcodes hv)
  rw [← rowOf_of_not_recognised (.data b) h]
  exact exec_data_discarded takesNone b s

/-- Settles O20: the row only latches its opcode, which writes `cmd` and `pbuf`; the eight opcodes that
well-formedness excludes have rows of their own. -/
theorem otherOpcodeOnlyLatches : Obligations.OtherOpcodeOnlyLatches := by
  unfold Obligations.OtherOpcodeOnlyLatches
  intro v s _
  rw [exec_other_command, State.latchCommand]

/-- Settles O30: each of the five rows is the row of an opcode outside the four that take data bytes. -/
theorem unusedDataBytesAreDiscarded : Obligations.UnusedDataBytesAreDiscarded := by
  unfold Obligations.UnusedDataBytesAreDiscarded
  intro b s
  have invoff : exec (.invoff (.data b)) s = .next s := exec_data_discarded (cmd := 0x20#8) (by decide) b s
  have invon : exec (.invon (.data b)) s = .next s := exec_data_discarded (cmd := 0x21#8) (by decide) b s
  have dispoff : exec (.dispoff (.data b)) s = .next s := exec_data_discarded (cmd := 0x28#8) (by decide) b s
  have dispon : exec (.dispon (.data b)) s = .next s := exec_data_discarded (cmd := 0x29#8) (by decide) b s
  exact ⟨invoff, invon, dispoff, dispon, fun v h => exec_other_data (wellFormed_other_iff.mp h) b s⟩

end Sys2Proof
end

