-- ==== Sys2Proof/Proofs/Exceptions.lean ====
section
/-! SUPPORT. Totality, from a row of the opcode map up to a run: every instruction, `WRITE_BYTE`, operation, step
and run gives a next state; and the statement of 60_exceptions.md (R230). -/

namespace Sys2Proof

open Machine

/-- The laws of command and data bytes hold for the row of any opcode and end in a next state. -/
theorem exec_rowOf_gives_next (op : Byte) (r : ByteRole) (s : State) :
    ∃ t, exec (rowOf op r) s = .next t := by
  cases r with
  | command => exact ⟨_, exec_command_cases op s⟩
  | data b => exact ⟨_, exec_data_cases op b s⟩

/-- OTHER under any opcode, the eight included: an ill-formed instruction, which no byte decodes to, is not
refused either. -/
theorem exec_other_gives_next (v : Byte) (r : ByteRole) (s : State) :
    ∃ t, exec (.other v r) s = .next t := by
  cases r with
  | command => exact ⟨_, exec_other_command v s⟩
  | data b => exact ⟨s.discardData b, rfl⟩

/-- R230 for an instruction: each of the eight recognised rows is the row of its own opcode. -/
theorem exec_gives_next (i : Instr) (s : State) : ∃ t, exec i s = .next t := by
  cases i with
  | invoff r => exact exec_rowOf_gives_next 0x20#8 r s
  | invon r => exact exec_rowOf_gives_next 0x21#8 r s
  | dispoff r => exact exec_rowOf_gives_next 0x28#8 r s
  | dispon r => exact exec_rowOf_gives_next 0x29#8 r s
  | caset r => exact exec_rowOf_gives_next 0x2A#8 r s
  | paset r => exact exec_rowOf_gives_next 0x2B#8 r s
  | ramwr r => exact exec_rowOf_gives_next 0x2C#8 r s
  | madctl r => exact exec_rowOf_gives_next 0x36#8 r s
  | other v r => exact exec_other_gives_next v r s

/-- R230 for `WRITE_BYTE`: the three classes of byte (R90), of which the one that the decoder rejects is
ignored. -/
theorem writeByte_gives_next (b : Byte) (s : State) : ∃ t, writeByte b s = .next t := by
  cases hc : s.chipSelect with
  | high => exact ⟨s, writeByte_deselected hc b⟩
  | low =>
    cases hd : s.dataSelect with
    | low =>
      rw [writeByte_command hc hd]
      exact exec_gives_next _ s
    | high =>
      rw [writeByte_data hc hd]
      exact exec_gives_next _ s

/-- R230 for an operation of the host or the renderer. -/
theorem perform_gives_next (op : HostOp) (s : State) : ∃ t, perform op s = .next t := by
  cases op with
  | writeByte b => exact writeByte_gives_next b s
  | csSet | dsSet | csGet | dsGet | snapshot => exact ⟨_, rfl⟩

/-- R230 for a step: with no operation to come the block waits, which is no stop (R262). -/
theorem step_gives_next (s : State) : ∃ t, step s = .next t := by
  cases hops : s.ops with
  | nil => exact ⟨s, step_idle hops⟩
  | cons op rest =>
    rw [step_op hops]
    exact perform_gives_next op (s.takeOp rest)

/-- R230 for a run: no step of it stops. -/
theorem run_gives_next (n : Nat) (s : State) : ∃ t, run n s = .next t := by
  induction n generalizing s with
  | zero => exact ⟨s, rfl⟩
  | succ n ih =>
    obtain ⟨u, hu⟩ := step_gives_next s
    rw [run_succ hu]
    exact ih u

/-- Settles O33: totality of the rows gives that of the instructions, and so on up to operations, steps and, by
induction on the length, runs. -/
theorem noOperationEverStops : Obligations.NoOperationEverStops := by
  unfold Obligations.NoOperationEverStops
  exact ⟨exec_gives_next, step_gives_next, run_gives_next⟩

end Sys2Proof
end

