-- ==== Sys2Proof/Proofs/Decoder.lean ====
section
/-! SUPPORT. Decoding and encoding as inverses of each other: a well-formed instruction is the row of its own
opcode and role, and the encoding of a row is the triple it is read from; and the statements of 30_encoding.md
that follow from these two facts (R90, R104, R105). -/

namespace Sys2Proof

/-- R104, R105: a well-formed instruction is the row of its own opcode, with its own role. -/
theorem rowOf_opcode_role {i : Instr} (h : i.wellFormed = true) : rowOf i.opcode i.role = i := by
  cases i with
  | other v r => exact rowOf_of_not_recognised r (wellFormed_other_iff.mp h)
  | invoff | invon | dispoff | dispon | caset | paset | ramwr | madctl => rfl

/-- R90: a command byte is presented as its opcode with `data_select` at `Low`. -/
@[simp] theorem encode_rowOf_command (op : Byte) : encode (rowOf op .command) = ⟨.low, .low, op⟩ := by
  simp [encode]

/-- R90: a data byte is presented as it is with `data_select` at `High`. -/
@[simp] theorem encode_rowOf_data (op b : Byte) : encode (rowOf op (.data b)) = ⟨.low, .high, b⟩ := by
  simp [encode]

/-- R104: a row is OTHER exactly when its opcode is none of the eight. -/
theorem rowOf_eq_other_iff {op : Byte} {role : ByteRole} :
    (∃ v r, rowOf op role = .other v r) ↔ op ∉ recognisedOpcodes := by
  constructor
  · rintro ⟨v, r, h⟩
    have legal : (Instr.other v r).wellFormed = true := h ▸ wellFormed_rowOf op role
    have sameOpcode : op = v := by simpa [h, Instr.opcode] using (opcode_rowOf op role).symm
    exact sameOpcode ▸ wellFormed_other_iff.mp legal
  · exact fun h => ⟨op, role, rowOf_of_not_recognised role h⟩

/-- Settles O4: decoding looks up the row of the opcode in force, the byte's own or `cmd`, and that row is the
instruction. -/
theorem encodeThenDecodeGivesTheInstruction : Obligations.EncodeThenDecodeGivesTheInstruction := by
  unfold Obligations.EncodeThenDecodeGivesTheInstruction
  intro i cmd legal underItsRow
  have row := rowOf_opcode_role legal
  cases hrole : i.role with
  | command => rw [encode, hrole, decode_command, ← hrole, row]
  | data b => rw [encode, hrole, decode_data, underItsRow ⟨b, hrole⟩, ← hrole, row]

/-- Settles O5: the two received classes of byte decode to a row, whose encoding, well-formedness and opcode are
known; a deselected byte decodes to no instruction. -/
theorem decodeThenEncodeGivesTheTriple : Obligations.DecodeThenEncodeGivesTheTriple := by
  unfold Obligations.DecodeThenEncodeGivesTheTriple
  rintro cmd ⟨cs, ds, b⟩ i h
  cases cs with
  | high => simp at h
  | low =>
    cases ds with
    | low =>
      obtain rfl : rowOf b .command = i := by simpa using h
      exact ⟨encode_rowOf_command b, wellFormed_rowOf b _, fun _ hdata => by simp at hdata⟩
    | high =>
      obtain rfl : rowOf cmd (.data b) = i := by simpa using h
      exact ⟨encode_rowOf_data cmd b, wellFormed_rowOf cmd _, fun _ _ => opcode_rowOf cmd _⟩

/-- Settles O2: the command byte `b` decodes to the row of `b`, which is OTHER exactly outside the eight. -/
theorem opcodeMapCoversEveryCommandByte : Obligations.OpcodeMapCoversEveryCommandByte := by
  unfold Obligations.OpcodeMapCoversEveryCommandByte
  intro cmd b
  refine ⟨rowOf b .command, decode_command cmd b, role_rowOf b _, opcode_rowOf b _, ?_⟩
  simp [rowOf_eq_other_iff, recognisedOpcodes]

/-- Settles O1: both received classes look their row up in the opcode map (`decode_command`, `decode_data`), here
at fixed opcodes. -/
theorem tableWordsDecodeToTheirRows : Obligations.TableWordsDecodeToTheirRows := by
  unfold Obligations.TableWordsDecodeToTheirRows
  simp only [decode_command, decode_data]
  exact ⟨fun _ => ⟨rfl, rfl, rfl, rfl, rfl, rfl⟩, fun _ => ⟨rfl, rfl, rfl, rfl⟩⟩

end Sys2Proof
end

