-- ==== Sys2Proof/Proofs/StepEffect.lean ====
section
/-! SUPPORT. The inversion of a step, with one named case per thing that a received byte, or an operation, can do
(43_byte_dispatch.md R150 to R154, R216). A case names the update and the guard under which it happens; the
statements about what a step changes or keeps are case analyses over it. -/

namespace Sys2Proof.Machine

/-- The opcodes whose command bytes write more than the latch (R165 to R168, R190). -/
def writingOpcodes : List Byte := [0x20#8, 0x21#8, 0x28#8, 0x29#8, 0x2C#8]

/-- What receiving the byte that is the instruction `i` makes of the state `u`. -/
inductive ByteEffect (u : State) : Instr → State → Prop where
  /-- INVOFF (R165). -/
  | invoff : ByteEffect u (.invoff .command) ((u.latchCommand 0x20#8).setInverted false)
  /-- INVON (R166). -/
  | invon : ByteEffect u (.invon .command) ((u.latchCommand 0x21#8).setInverted true)
  /-- DISPOFF (R167). -/
  | dispoff : ByteEffect u (.dispoff .command) ((u.latchCommand 0x28#8).setDisplayEnabled false)
  /-- DISPON (R168). -/
  | dispon : ByteEffect u (.dispon .command) ((u.latchCommand 0x29#8).setDisplayEnabled true)
  /-- The RAMWR command byte loads the cursor (R190). -/
  | ramwr : ByteEffect u (.ramwr .command)
      ((u.latchCommand 0x2C#8).setCursor u.xWindow.start u.yWindow.start)
  /-- The command bytes of CASET, PASET, MADCTL and OTHER only latch (R180, R181, R205, R215). -/
  | latch (op : Byte) (h : op ∉ writingOpcodes) : ByteEffect u (rowOf op .command) (u.latchCommand op)
  /-- A CASET byte that the buffer takes (R182). -/
  | casetPush (b : Byte) (hcmd : u.cmd = 0x2A#8) (hlen : u.pbuf.length < 3) :
      ByteEffect u (.caset (.data b)) (u.pushParam b)
  /-- A CASET byte that completes a group (R183). -/
  | casetCommit (b : Byte) (hcmd : u.cmd = 0x2A#8) (hlen : ¬ u.pbuf.length < 3) :
      ByteEffect u (.caset (.data b)) (u.popGroup.setXWindow (windowOf u.pbuf b))
  /-- A PASET byte that the buffer takes (R182). -/
  | pasetPush (b : Byte) (hcmd : u.cmd = 0x2B#8) (hlen : u.pbuf.length < 3) :
      ByteEffect u (.paset (.data b)) (u.pushParam b)
  /-- A PASET byte that completes a group (R184). -/
  | pasetCommit (b : Byte) (hcmd : u.cmd = 0x2B#8) (hlen : ¬ u.pbuf.length < 3) :
      ByteEffect u (.paset (.data b)) (u.popGroup.setYWindow (windowOf u.pbuf b))
  /-- The first byte of a pixel pair (R191). -/
  | pixelPush (b : Byte) (hcmd : u.cmd = 0x2C#8) (hlen : u.pbuf.length = 0) :
      ByteEffect u (.ramwr (.data b)) (u.pushParam b)
  /-- The second byte of a pixel pair (R192, R193). -/
  | pixelCommit (b : Byte) (hcmd : u.cmd = 0x2C#8) (hlen : ¬ u.pbuf.length = 0) :
      ByteEffect u (.ramwr (.data b)) (u.popParam.commitPixel (joinBytes (newest u.pbuf) b))
  /-- A MADCTL data byte (R206). -/
  | madctl (b : Byte) (hcmd : u.cmd = 0x36#8) : ByteEffect u (.madctl (.data b)) (u.setOrientation b)
  /-- A data byte that no rule uses (R216). -/
  | discard (b : Byte) (h : u.cmd ∉ dataOpcodes) : ByteEffect u (rowOf u.cmd (.data b)) u

/-- The law of command bytes, by cases. -/
theorem byteEffect_command {op : Byte} {u t : State} (h : exec (rowOf op .command) u = .next t) :
    ByteEffect u (rowOf op .command) t := by
  rw [exec_command_cases] at h
  cases h
  split_ifs with h20 h21 h28 h29 h2C
  · subst h20; exact .invoff
  · subst h21; exact .invon
  · subst h28; exact .dispoff
  · subst h29; exact .dispon
  · subst h2C; exact .ramwr
  · exact .latch op (by simp [writingOpcodes, h20, h21, h28, h29, h2C])

/-- The law of data bytes, by cases. -/
theorem byteEffect_data {b : Byte} {u t : State} (h : exec (rowOf u.cmd (.data b)) u = .next t) :
    ByteEffect u (rowOf u.cmd (.data b)) t := by
  rw [exec_data_cases] at h
  cases h
  split_ifs with h2A hlen h2B hlen h2C hlen h36
  · rw [h2A]; exact .casetPush b h2A hlen
  · rw [h2A]; exact .casetCommit b h2A hlen
  · rw [h2B]; exact .pasetPush b h2B hlen
  · rw [h2B]; exact .pasetCommit b h2B hlen
  · rw [h2C]; exact .pixelPush b h2C hlen
  · rw [h2C]; exact .pixelCommit b h2C hlen
  · rw [h36]; exact .madctl b h36
  · exact .discard b (by simp [dataOpcodes, h2A, h2B, h2C, h36])

/-- What one step makes of the state `s`: it waits, an operation moves a latch, gives an answer or is a byte that
is not received, or a byte is received. -/
inductive StepEffect (s : State) : State → Prop where
  /-- No operation is pending (R262). -/
  | wait : StepEffect s s
  /-- `CS_SET` (R140). -/
  | csSet (l : Level) (rest : List HostOp) (h : s.ops = .csSet l :: rest) :
      StepEffect s ((s.takeOp rest).csSet l)
  /-- `DS_SET` (R141). -/
  | dsSet (l : Level) (rest : List HostOp) (h : s.ops = .dsSet l :: rest) :
      StepEffect s ((s.takeOp rest).dsSet l)
  /-- `CS_GET`, `DS_GET` or `SNAPSHOT` (R131, R142). -/
  | answer (r : Reply) (rest : List HostOp) : StepEffect s ((s.takeOp rest).reply r)
  /-- A byte is presented while deselected (R151). -/
  | ignored (rest : List HostOp) : StepEffect s (s.takeOp rest)
  /-- A byte is received (R150). -/
  | received {i : Instr} {t : State} (rest : List HostOp) (hi : s.Receives i)
      (ht : ByteEffect (s.takeOp rest) i t) : StepEffect s t

/-- Every step is one of these cases. -/
theorem stepEffect_of_step {s t : State} (h : step s = .next t) : StepEffect s t := by
  obtain rfl | ⟨op, rest, hops, hop⟩ := step_cases h
  · exact .wait
  · obtain ⟨l, rfl, rfl⟩ | ⟨l, rfl, rfl⟩ | ⟨r, -, rfl⟩ | ⟨b, rfl, -, rfl⟩ | ⟨b, rfl, hc, hd, ht⟩ |
      ⟨b, rfl, hc, hd, ht⟩ := hop
    · exact .csSet l rest hops
    · exact .dsSet l rest hops
    · exact .answer r rest
    · exact .ignored rest
    · exact .received rest (receives_command hops hc hd) (byteEffect_command ht)
    · exact .received rest (receives_data hops hc hd) (byteEffect_data (u := s.takeOp rest) ht)

end Sys2Proof.Machine
end

