-- ==== Sys2Proof/Proofs/PixelScaling.lean ====
section
/-! SUPPORT. The scaled fields of layout B as arithmetic (R97, R103), the statement of layout B
(40_pixel_codec.md R121), and the channel values that each layout can store (R35 (c)). -/

namespace Sys2Proof.Machine

/-- R103: shifting a field of at most 13 bits left by 3 is exact in 16 bits, so only the truncation to a byte
loses anything. -/
theorem scaled8_toNat (w : Word) (lo : Nat) {len : Nat} (hlen : len ≤ 13) :
    (scaled8 w lo len).toNat = w.toNat / 2 ^ lo % 2 ^ len * 8 % 256 := by
  have field : w.toNat / 2 ^ lo % 2 ^ len < 2 ^ 13 :=
    (Nat.mod_lt _ (Nat.two_pow_pos len)).trans_le (Nat.pow_le_pow_right (by decide) hlen)
  simp only [scaled8, BitVec.toNat_setWidth, BitVec.toNat_shiftLeft, BitVec.extractLsb'_toNat,
    Nat.shiftRight_eq_div_pow, Nat.shiftLeft_eq]
  omega

/-- R121 with R122: the three fields of a layout B device. -/
theorem decodePixel_B (w : Word) : decodePixel .B w = ⟨scaled8 w 11 5, scaled8 w 5 6, scaled8 w 0 5⟩ := rfl

/-- Settles O32: each channel of layout B is one scaled field; the five bits of red and blue fit in a byte after
the scaling, the six of green do not (D4). -/
theorem layoutBDecodesFieldsTimesEight : Obligations.LayoutBDecodesFieldsTimesEight := by
  unfold Obligations.LayoutBDecodesFieldsTimesEight
  intro w
  have red := scaled8_toNat w 11 (len := 5) (by decide)
  have green := scaled8_toNat w 5 (len := 6) (by decide)
  have blue := scaled8_toNat w 0 (len := 5) (by decide)
  rw [decodePixel_B]
  refine ⟨red.trans ?_, green, blue.trans ?_⟩ <;> omega

/-- R35 (c): what a layout decodes to is what it can store. -/
theorem decodePixel_fitsLayout (l : PixelLayout) (w : Word) : (decodePixel l w).FitsLayout l := by
  cases l with
  | A =>
    obtain ⟨red, green, blue⟩ := layoutADecodesFourFiveFour w
    exact ⟨fun _ => by omega, nofun⟩
  | B =>
    obtain ⟨red, green, blue⟩ := layoutBDecodesFieldsTimesEight w
    exact ⟨nofun, fun _ => by omega⟩

end Sys2Proof.Machine
end

