-- ==== Sys2Proof/Proofs/Invariant.lean ====
section
/-! SUPPORT. The invariant of the reachable states, part by part through one received byte and then through a step
(10_state.md R35), and the window premise that excludes dropped writes (93_implementation_defined.md U1). -/

namespace Sys2Proof.Machine

/-! ### The invariant (R35) -/

theorem byteEffect_device {u t : State} {i : Instr} (h : ByteEffect u i t) : t.device = u.device := by
  cases h <;> rfl

/-- R35 (a) under CASET and PASET. -/
theorem bufferInv_of_window {s : State} (hcmd : s.cmd = 0x2A#8 ∨ s.cmd = 0x2B#8) (hlen : s.pbuf.length ≤ 3) :
    s.BufferInv := by
  refine ⟨hlen, fun h => ?_, fun h2A h2B => (hcmd.elim h2A h2B).elim⟩
  rw [h] at hcmd
  exact absurd hcmd (by decide)

/-- R35 (a) under RAMWR. -/
theorem bufferInv_of_ramwr {s : State} (hcmd : s.cmd = 0x2C#8) (hlen : s.pbuf.length ≤ 1) : s.BufferInv :=
  ⟨by omega, fun _ => hlen, fun _ _ h2C => absurd hcmd h2C⟩

/-- R35 (a) under any command whose group has not begun. -/
theorem bufferInv_of_empty {s : State} (h : s.pbuf = []) : s.BufferInv := by
  simp [State.BufferInv, h]

theorem length_pbuf_pushParam (s : State) (b : Byte) : (s.pushParam b).pbuf.length = s.pbuf.length + 1 := by
  rw [pushParam_pbuf, List.length_append, List.length_singleton]

theorem length_pbuf_popParam_le (s : State) : s.popParam.pbuf.length ≤ s.pbuf.length := by
  rw [popParam_pbuf, List.length_dropLast]
  exact Nat.sub_le ..

theorem length_pbuf_popGroup_le (s : State) : s.popGroup.pbuf.length ≤ s.pbuf.length :=
  (length_pbuf_popParam_le _).trans <| (length_pbuf_popParam_le _).trans (length_pbuf_popParam_le s)

/-- R35 (a): a command byte empties the buffer; a data byte adds to it below the limit of its command, or takes
bytes away. -/
theorem byteEffect_bufferInv {u t : State} {i : Instr} (h : ByteEffect u i t) (hu : u.BufferInv) :
    t.BufferInv := by
  have atMostThree := hu.1
  cases h with
  | invoff | invon | dispoff | dispon | ramwr | latch => exact bufferInv_of_empty rfl
  | casetPush b hcmd hlen => exact bufferInv_of_window (.inl hcmd) (length_pbuf_pushParam u b ▸ hlen)
  | pasetPush b hcmd hlen => exact bufferInv_of_window (.inr hcmd) (length_pbuf_pushParam u b ▸ hlen)
  | casetCommit _ hcmd _ => exact bufferInv_of_window (.inl hcmd) ((length_pbuf_popGroup_le u).trans atMostThree)
  | pasetCommit _ hcmd _ => exact bufferInv_of_window (.inr hcmd) ((length_pbuf_popGroup_le u).trans atMostThree)
  | pixelPush _ hcmd hlen => exact bufferInv_of_ramwr hcmd (by simp [hlen])
  | pixelCommit _ hcmd _ =>
    exact bufferInv_of_ramwr hcmd ((length_pbuf_popParam_le u).trans (hu.2.1 hcmd))
  | madctl | discard => exact hu

/-- R35 (b), (c): a pixel commit writes a decoded pixel through the bounds gate, and nothing else writes. -/
theorem byteEffect_gridInv {u t : State} {i : Instr} (h : ByteEffect u i t) (hu : u.GridInv) : t.GridInv := by
  obtain ⟨canonical, within, fits⟩ := hu
  cases h with
  | pixelCommit b _ _ =>
    refine ⟨Framebuffer.set_wf canonical _ _ _ _, Framebuffer.set_within within _ _ _, fun c hc => ?_⟩
    rcases Framebuffer.mem_set hc with written | old
    · rw [written]
      exact decodePixel_fitsLayout ..
    · exact fits c old
  | _ => exact ⟨canonical, within, fits⟩

/-- A received byte keeps all three parts of the invariant. -/
theorem byteEffect_inv {u t : State} {i : Instr} (h : ByteEffect u i t) (hu : u.Inv) : t.Inv := by
  obtain ⟨device, buffer, grid⟩ := hu
  exact ⟨byteEffect_device h ▸ device, byteEffect_bufferInv h buffer, byteEffect_gridInv h grid⟩

/-- Settles O47: the invariant speaks of no latch, answer or pending operation, so only a received byte can touch
it, and `byteEffect_inv` says that it keeps it. -/
theorem stepKeepsTheInvariant : Obligations.StepKeepsTheInvariant := by
  unfold Obligations.StepKeepsTheInvariant
  intro s t inv h
  cases stepEffect_of_step h with
  | received rest _ effect => exact byteEffect_inv effect inv
  | wait | csSet | dsSet | answer | ignored => exact inv

/-! ### The window premise (U1) -/

/-- A point inside windows that lie inside the framebuffer passes the bounds gate. -/
theorem inGrid_of_holds {s : State} {x y : Word} (inside : s.WindowsInside) (hx : s.xWindow.Holds x)
    (hy : s.yWindow.Holds y) : inGrid s.device x y = true := by
  obtain ⟨⟨-, hw⟩, -, hh⟩ := inside
  exact inGrid_iff.mpr ⟨hx.2.trans_le hw, hy.2.trans_le hh⟩

/-- A command byte that only latches is not RAMWR's. -/
theorem ne_ramwr_of_not_writing {op : Byte} (h : op ∉ writingOpcodes) : op ≠ 0x2C#8 :=
  (ne_of_mem_of_not_mem (by decide) h).symm

/-- The RAMWR command byte puts the cursor at the window start, a commit writes inside the grid and advances
within the windows, and under any other command nothing is claimed. -/
theorem byteEffect_onTarget {u t : State} {i : Instr} (h : ByteEffect u i t) (hu : u.OnTarget)
    (premise : i = .ramwr .command → u.WindowsInside) : t.OnTarget ∧ t.oobSeen = u.oobSeen := by
  cases h with
  | ramwr =>
    obtain ⟨xInside, yInside⟩ := premise rfl
    exact ⟨fun _ => ⟨⟨xInside, yInside⟩, ⟨le_rfl, xInside.1⟩, le_rfl, yInside.1⟩, rfl⟩
  | invoff | invon | dispoff | dispon => exact ⟨fun hcmd => absurd hcmd (by simp), rfl⟩
  | latch op hop => exact ⟨fun hcmd => absurd hcmd (ne_ramwr_of_not_writing hop), rfl⟩
  | casetCommit _ hcmd _ | pasetCommit _ hcmd _ =>
    exact ⟨fun hcmd' => absurd (hcmd.symm.trans hcmd') (by decide), rfl⟩
  | pixelCommit b hcmd _ =>
    obtain ⟨inside, hx, hy⟩ := hu hcmd
    refine ⟨fun _ => ⟨inside, holds_nextColumn inside.1.1 hx, holds_nextRow inside.2.1 hy⟩, ?_⟩
    simp [inGrid_of_holds inside hx hy]
  | casetPush | pasetPush | pixelPush | madctl | discard => exact ⟨hu, rfl⟩

/-- The device receives a RAMWR command byte only when that byte is presented with both latches `Low`. -/
theorem ramwrNext_of_receives {s : State} (h : s.Receives (.ramwr .command)) : s.RamwrNext := by
  obtain ⟨b, rest, hops, hdec⟩ := h
  obtain ⟨triple, -, -⟩ := decodeThenEncodeGivesTheTriple _ _ _ hdec
  simp only [encode, Instr.role, Instr.opcode, State.presented, Triple.mk.injEq] at triple
  obtain ⟨cs, ds, rfl⟩ := triple
  exact ⟨cs.symm, ds.symm, by rw [hops]; rfl⟩

/-- Settles O48: only a received byte touches what is claimed, and at a RAMWR command byte the premise gives the
windows. -/
theorem windowPremiseExcludesDroppedWrites : Obligations.WindowPremiseExcludesDroppedWrites := by
  unfold Obligations.WindowPremiseExcludesDroppedWrites
  intro s t onTarget premise h
  cases stepEffect_of_step h with
  | received rest hi effect =>
    exact byteEffect_onTarget (u := s.takeOp rest) effect onTarget fun isRamwr =>
      premise (ramwrNext_of_receives (isRamwr ▸ hi))
  | wait | csSet | dsSet | answer | ignored => exact ⟨onTarget, rfl⟩

/-! ### After reset -/

/-- Settles O46: the device is within its bounds by type, the buffer and the cell list are empty, and the current
command is not RAMWR. -/
theorem resetMeetsTheInvariant : Obligations.ResetMeetsTheInvariant := by
  unfold Obligations.ResetMeetsTheInvariant
  have buffer : State.reset.BufferInv := ⟨by decide, by decide, fun _ _ _ => rfl⟩
  have grid : State.reset.GridInv := ⟨⟨.nil, nofun⟩, nofun, nofun⟩
  have notRamwr : State.reset.cmd ≠ 0x2C#8 := by decide
  exact ⟨⟨wellFormed_config_device, buffer, grid⟩, fun h => absurd h notRamwr, rfl⟩

/-- The window's `stop` holds a dimension within the bounds of R5 as it is (D10). -/
theorem toNat_dimension {n : Nat} (h : n ≤ 65535) : (BitVec.ofNat 16 n).toNat = n :=
  (BitVec.toNat_ofNat n 16).trans (Nat.mod_eq_of_lt (by omega))

/-- Settles O45: every field is read off the construction; the two dimensions fit in their 16-bit registers. -/
theorem resetLeavesTheRegistersOfTheTable : Obligations.ResetLeavesTheRegistersOfTheTable := by
  unfold Obligations.ResetLeavesTheRegistersOfTheTable
  obtain ⟨-, width, -, height⟩ := wellFormed_config_device
  exact ⟨rfl, rfl, rfl, rfl, rfl, toNat_dimension width, rfl, toNat_dimension height, rfl, rfl, rfl, rfl, rfl,
    read_resetFor Config.device, rfl, rfl, rfl⟩

end Sys2Proof.Machine
end

