-- ==== Sys2Proof/Proofs/Writers.lean ====
section
/-! SUPPORT. Who writes each element of the state: for every field, the received bytes that can change it
(`byteEffect_<field>_writer`), and from these the statements of 10_state.md section 3 and 41_framebuffer.md R130,
R132. Every case of a received byte that a proof does not name leaves the field as it was. -/

namespace Sys2Proof.Machine

/-! ### The writers among the received bytes -/

section
variable {u t : State} {i : Instr} (h : ByteEffect u i t)
include h

/-- R23. -/
theorem byteEffect_cmd_writer (ne : t.cmd ≠ u.cmd) : i.role = .command ∧ t.cmd = i.opcode := by
  cases h with
  | invoff | invon | dispoff | dispon | ramwr => exact ⟨rfl, rfl⟩
  | latch op _ => exact ⟨role_rowOf op _, (opcode_rowOf op _).symm⟩
  | _ => exact absurd rfl ne

/-- R24. -/
theorem byteEffect_pbuf_writer (ne : t.pbuf ≠ u.pbuf) :
    i.role = .command ∨ ∃ b, i = .caset (.data b) ∨ i = .paset (.data b) ∨ i = .ramwr (.data b) := by
  cases h with
  | invoff | invon | dispoff | dispon | ramwr => exact .inl rfl
  | latch op _ => exact .inl (role_rowOf op _)
  | casetPush b | casetCommit b => exact .inr ⟨b, .inl rfl⟩
  | pasetPush b | pasetCommit b => exact .inr ⟨b, .inr (.inl rfl)⟩
  | pixelPush b | pixelCommit b => exact .inr ⟨b, .inr (.inr rfl)⟩
  | madctl | discard => exact absurd rfl ne

/-- R25. -/
theorem byteEffect_xWindow_writer (ne : t.xWindow ≠ u.xWindow) :
    ∃ b, i = .caset (.data b) ∧ ¬ u.pbuf.length < 3 := by
  cases h with
  | casetCommit b _ hlen => exact ⟨b, rfl, hlen⟩
  | _ => exact absurd rfl ne

/-- R26. -/
theorem byteEffect_yWindow_writer (ne : t.yWindow ≠ u.yWindow) :
    ∃ b, i = .paset (.data b) ∧ ¬ u.pbuf.length < 3 := by
  cases h with
  | pasetCommit b _ hlen => exact ⟨b, rfl, hlen⟩
  | _ => exact absurd rfl ne

/-- R27. -/
theorem byteEffect_cursor_writer (ne : t.x ≠ u.x ∨ t.y ≠ u.y) :
    i = .ramwr .command ∨ ∃ b, i = .ramwr (.data b) ∧ u.cmd = 0x2C#8 ∧ u.pbuf.length ≠ 0 := by
  cases h with
  | ramwr => exact .inl rfl
  | pixelCommit b hcmd hlen => exact .inr ⟨b, rfl, hcmd, hlen⟩
  | _ => exact absurd ⟨rfl, rfl⟩ (not_and_or.mpr ne)

/-- R31. -/
theorem byteEffect_fb_writer (ne : t.fb ≠ u.fb) :
    ∃ b p, i = .ramwr (.data b) ∧ u.cmd = 0x2C#8 ∧ u.pbuf.length ≠ 0 ∧
      t.fb = u.fb.set u.device u.x u.y p := by
  cases h with
  | pixelCommit b hcmd hlen => exact ⟨b, _, rfl, hcmd, hlen, rfl⟩
  | _ => exact absurd rfl ne

/-- R30, R132. -/
theorem byteEffect_inverted_writer (ne : t.inverted ≠ u.inverted) :
    (i = .invoff .command ∨ i = .invon .command) ∧ t.fb = u.fb := by
  cases h with
  | invoff => exact ⟨.inl rfl, rfl⟩
  | invon => exact ⟨.inr rfl, rfl⟩
  | _ => exact absurd rfl ne

/-- R29, R132. -/
theorem byteEffect_displayEnabled_writer (ne : t.displayEnabled ≠ u.displayEnabled) :
    (i = .dispoff .command ∨ i = .dispon .command) ∧ t.fb = u.fb := by
  cases h with
  | dispoff => exact ⟨.inl rfl, rfl⟩
  | dispon => exact ⟨.inr rfl, rfl⟩
  | _ => exact absurd rfl ne

/-- R28. -/
theorem byteEffect_orientation_writer (ne : t.orientation ≠ u.orientation) : ∃ m, i = .madctl (.data m) := by
  cases h with
  | madctl m => exact ⟨m, rfl⟩
  | _ => exact absurd rfl ne

/-- R21, R22: no received byte moves a latch. -/
theorem byteEffect_latches : t.chipSelect = u.chipSelect ∧ t.dataSelect = u.dataSelect := by
  cases h <;> exact ⟨rfl, rfl⟩

end

/-! ### What a step changes

In each case analysis over a step, the operations other than a received byte leave the element as it was. -/

/-- Settles O34: the writers of `cmd` and `pbuf` among the received bytes are the ones named. -/
theorem cmdAndBufferChangeOnlyByReceivedBytes : Obligations.CmdAndBufferChangeOnlyByReceivedBytes := by
  unfold Obligations.CmdAndBufferChangeOnlyByReceivedBytes
  intro s t h
  cases stepEffect_of_step h with
  | received rest hi effect =>
    exact ⟨fun ne => ⟨_, hi, byteEffect_cmd_writer effect ne⟩,
      fun ne => ⟨_, hi, byteEffect_pbuf_writer effect ne⟩⟩
  | wait | csSet | dsSet | answer | ignored => exact ⟨absurd rfl, absurd rfl⟩

/-- Settles O35: a window is committed only on a buffer that is not below three bytes, and R35 (a) bounds it by
three. -/
theorem windowsChangeOnlyAtTheFourthByte : Obligations.WindowsChangeOnlyAtTheFourthByte := by
  unfold Obligations.WindowsChangeOnlyAtTheFourthByte
  intro s t buffer h
  have atMostThree := buffer.1
  have full : ¬ s.pbuf.length < 3 → s.pbuf.length = 3 := by omega
  cases stepEffect_of_step h with
  | received rest hi effect =>
    constructor
    · intro ne
      obtain ⟨b, rfl, hlen⟩ := byteEffect_xWindow_writer effect ne
      exact ⟨b, hi, full hlen⟩
    · intro ne
      obtain ⟨b, rfl, hlen⟩ := byteEffect_yWindow_writer effect ne
      exact ⟨b, hi, full hlen⟩
  | wait | csSet | dsSet | answer | ignored => exact ⟨absurd rfl, absurd rfl⟩

/-- R35 (a): a buffer that is not empty under RAMWR holds one byte. -/
theorem length_pbuf_under_ramwr {s : State} (buffer : s.BufferInv) (hcmd : s.cmd = 0x2C#8)
    (hlen : s.pbuf.length ≠ 0) : s.pbuf.length = 1 := by
  have atMostOne := buffer.2.1 hcmd
  omega

/-- Settles O36: the cursor's writers are RAMWR's command byte and its data byte on a buffer that is not empty. -/
theorem cursorChangesOnlyByRamwr : Obligations.CursorChangesOnlyByRamwr := by
  unfold Obligations.CursorChangesOnlyByRamwr
  intro s t buffer h ne
  cases stepEffect_of_step h with
  | received rest hi effect =>
    obtain rfl | ⟨b, rfl, hcmd, hlen⟩ := byteEffect_cursor_writer effect ne
    · exact .inl hi
    · exact .inr ⟨b, hi, length_pbuf_under_ramwr buffer hcmd hlen⟩
  | wait | csSet | dsSet | answer | ignored => exact absurd ⟨rfl, rfl⟩ (not_and_or.mpr ne)

/-- Settles O37: the grid's only writer is a gated write at the cursor, after which `read_set` tells which cell can
read differently. -/
theorem cellsChangeOnlyByAPixelCommitAtTheCursor : Obligations.CellsChangeOnlyByAPixelCommitAtTheCursor := by
  unfold Obligations.CellsChangeOnlyByAPixelCommitAtTheCursor
  intro s t idx inv h ne
  obtain ⟨-, buffer, ⟨canonical, -⟩⟩ := inv
  cases stepEffect_of_step h with
  | received rest hi effect =>
    obtain ⟨b, p, rfl, hcmd, hlen, written⟩ :=
      byteEffect_fb_writer effect fun same => ne (congrArg (Framebuffer.read · idx) same)
    have atCursor : inGrid s.device s.x s.y = true ∧ cellIndex s.device s.x s.y = idx := by
      by_contra elsewhere
      apply ne
      rw [written]
      exact (Framebuffer.read_set canonical ..).trans (if_neg elsewhere)
    obtain ⟨hx, hy⟩ := inGrid_iff.mp atCursor.1
    exact ⟨⟨b, hi⟩, length_pbuf_under_ramwr buffer hcmd hlen, hx, hy, atCursor.2.symm⟩
  | wait | csSet | dsSet | answer | ignored => exact absurd rfl ne

/-- Settles O38: each flag's writers are its two command bytes, neither of which writes the grid. -/
theorem displayFlagsChangeOnlyByTheirCommands : Obligations.DisplayFlagsChangeOnlyByTheirCommands := by
  unfold Obligations.DisplayFlagsChangeOnlyByTheirCommands
  intro s t h
  cases stepEffect_of_step h with
  | received rest hi effect =>
    constructor
    · intro ne
      obtain ⟨rfl | rfl, grid⟩ := byteEffect_inverted_writer effect ne
      · exact ⟨.inl hi, grid⟩
      · exact ⟨.inr hi, grid⟩
    · intro ne
      obtain ⟨rfl | rfl, grid⟩ := byteEffect_displayEnabled_writer effect ne
      · exact ⟨.inl hi, grid⟩
      · exact ⟨.inr hi, grid⟩
  | wait | csSet | dsSet | answer | ignored => exact ⟨absurd rfl, absurd rfl⟩

/-- Settles O39: a received byte moves no latch and no parameter; of the other operations only the two set
operations move a latch, each its own. -/
theorem orientationLatchesAndDeviceHaveOneWriter : Obligations.OrientationLatchesAndDeviceHaveOneWriter := by
  unfold Obligations.OrientationLatchesAndDeviceHaveOneWriter
  intro s t h
  cases stepEffect_of_step h with
  | received rest hi effect =>
    obtain ⟨cs, ds⟩ := byteEffect_latches effect
    refine ⟨fun ne => ?_, absurd cs, absurd ds, byteEffect_device (u := s.takeOp rest) effect⟩
    obtain ⟨m, rfl⟩ := byteEffect_orientation_writer effect ne
    exact ⟨m, hi⟩
  | csSet l rest hops => exact ⟨absurd rfl, fun _ => by simp [hops], absurd rfl, rfl⟩
  | dsSet l rest hops => exact ⟨absurd rfl, absurd rfl, fun _ => by simp [hops], rfl⟩
  | wait | answer | ignored => exact ⟨absurd rfl, absurd rfl, absurd rfl, rfl⟩

end Sys2Proof.Machine
end

