-- ==== Sys2Proof/Proofs/HostStep.lean ====
section
/-! SUPPORT. The byte sink, the reads and the idle block as equations of `step` and `run`, and the statements of
43_byte_dispatch.md R150, 42_signal_lines.md R142 and 70_reset_and_hazards.md R262; what a command byte discards
(20_memory.md section 3). -/

namespace Sys2Proof.Machine

/-- R150 as an equation: a received byte is run as the instruction it decodes to. -/
theorem writeByte_of_decode {s : State} {b : Byte} {i : Instr} (h : decode s.cmd (s.presented b) = .instr i) :
    writeByte b s = exec i s := by
  rw [writeByte, h]

/-- Settles O6: taking the operation moves neither the latches nor `cmd`, so the byte decodes as it was presented. -/
theorem stepRunsTheDecodedInstruction : Obligations.StepRunsTheDecodedInstruction := by
  unfold Obligations.StepRunsTheDecodedInstruction
  intro s b rest i hops hdec
  rw [step_op hops, perform]
  exact writeByte_of_decode (s := s.takeOp rest) hdec

/-- A byte taken as a table word decodes to its row's command byte (R91, R104). -/
theorem decodeTableWord_toNat (b : Byte) : decodeTableWord 8 b.toNat = some (rowOf b .command) := by
  simp [decodeTableWord]

/-- The state with a placed word, in the terms of a received command byte. -/
theorem withFetchWord_ops (s : State) (b : Byte) :
    (s.withFetchWord 8 b.toNat).ops = .writeByte b :: s.ops := by
  simp [State.withFetchWord, State.presentCommand]

/-- Settles O7: the placed word is a received command byte, which runs its row. -/
theorem fetchWordIsRunByTheNextStep : Obligations.FetchWordIsRunByTheNextStep := by
  unfold Obligations.FetchWordIsRunByTheNextStep
  intro s b
  refine ⟨rowOf b .command, decodeTableWord_toNat b, role_rowOf b _, opcode_rowOf b _, ?_⟩
  rw [step_writeByte_command rfl rfl (withFetchWord_ops s b)]
  rfl

/-- Settles O11: a read appends its answer to the state from which it was taken, and the latches are those of that
state. -/
theorem latchReadsReturnTheLatches : Obligations.LatchReadsReturnTheLatches := by
  unfold Obligations.LatchReadsReturnTheLatches
  intro s rest
  constructor
  · intro hops
    rw [step_op hops, perform, takeOp_chipSelect]
    rfl
  · intro hops
    rw [step_op hops, perform, takeOp_dataSelect]
    rfl

/-- Settles O13: an idle step gives the same, idle, state; so does any number of them. -/
theorem nothingHappensBetweenOperations : Obligations.NothingHappensBetweenOperations := by
  unfold Obligations.NothingHappensBetweenOperations
  intro s idle n
  induction n with
  | zero => rfl
  | succ n ih => rw [run_succ (step_idle idle), ih]

/-- Settles O22: every row latches its command byte; the further writes of the display rows are flags, and RAMWR's
is the cursor. -/
theorem commandByteDiscardsAnIncompleteGroup : Obligations.CommandByteDiscardsAnIncompleteGroup := by
  unfold Obligations.CommandByteDiscardsAnIncompleteGroup
  intro i s hrole
  cases i with
  | ramwr r =>
    obtain rfl : r = .command := hrole
    exact ⟨_, exec_ramwr_command s, rfl, rfl, rfl, rfl, rfl, rfl, absurd rfl⟩
  | invoff r | invon r | dispoff r | dispon r | caset r | paset r | madctl r | other _ r =>
    obtain rfl : r = .command := hrole
    exact ⟨_, rfl, rfl, rfl, rfl, rfl, rfl, rfl, fun _ => ⟨rfl, rfl⟩⟩

end Sys2Proof.Machine
end

