-- ==== Sys2Proof/Proofs/PixelCommit.lean ====
section
/-! SUPPORT. The second byte of a pixel pair as an equation of `exec`, and its statements of 46_memory_write.md
(R192, R193). -/

namespace Sys2Proof.Machine

/-- Popping the one buffered byte writes `pbuf` only, which is empty then. -/
theorem popParam_of_singleton {s : State} {h : Byte} (hs : s.pbuf = [h]) : s.popParam = { s with pbuf := [] } := by
  rw [State.popParam, hs, List.dropLast_singleton]

/-- R192 as an equation of `exec`: the pair is assembled, high byte first, and committed. -/
theorem exec_ramwr_second {s : State} {h : Byte} (b : Byte) (hs : s.pbuf = [h]) :
    exec (.ramwr (.data b)) s = .next (({ s with pbuf := [] } : State).commitPixel (joinBytes h b)) := by
  have full : ¬ s.pbuf.length = 0 := by simp [hs]
  have newestByte : newest s.pbuf = h := by rw [hs]; rfl
  rw [exec_ramwr_data, if_neg full, popParam_of_singleton hs, newestByte]

/-- Settles O27: the commit is one gated write at the cursor, read back by `read_set`; the ghost is set exactly by
the gate. -/
theorem pixelCommitWritesTheCursorCell : Obligations.PixelCommitWritesTheCursorCell := by
  unfold Obligations.PixelCommitWritesTheCursorCell
  intro h b s canonical hs
  refine ⟨_, joinBytes h b, joinBytes_toNat h b, exec_ramwr_second b hs, fun hx hy => ?_, fun outside => ?_, rfl⟩
  · have inside : inGrid s.device s.x s.y = true := inGrid_iff.mpr ⟨hx, hy⟩
    refine ⟨?_, fun idx hidx => ?_, ?_⟩
    · exact (Framebuffer.read_set canonical ..).trans (if_pos ⟨inside, rfl⟩)
    · exact (Framebuffer.read_set canonical ..).trans (if_neg fun hcell => hidx hcell.2.symm)
    · simp [inside]
  · have dropped : inGrid s.device s.x s.y = false :=
      Bool.eq_false_iff.mpr fun inside => outside (inGrid_iff.mp inside)
    simp [dropped]

/-- D1: the increment of a coordinate as arithmetic. -/
theorem toNat_add_one (v : Word) : (v + 1#16).toNat = (v.toNat + 1) % 65536 := by
  rw [BitVec.toNat_add]
  rfl

/-- R193 on one axis, when the end is not reached. -/
theorem toNat_nextColumn_of_ne {w : Window} {v : Word} (h : (v.toNat + 1) % 65536 ≠ w.stop.toNat) :
    (nextColumn w v).toNat = (v.toNat + 1) % 65536 := by
  rw [nextColumn_inc (Bool.eq_false_iff.mpr (mt (reachesEnd_iff w v).mp h)), toNat_add_one]

/-- R193 on one axis, when the end is reached. -/
theorem nextColumn_of_eq {w : Window} {v : Word} (h : (v.toNat + 1) % 65536 = w.stop.toNat) :
    nextColumn w v = w.start :=
  nextColumn_wrap ((reachesEnd_iff w v).mpr h)

/-- R193: the row stays while the column does not reach its end. -/
theorem nextRow_of_column_ne {xw : Window} {x : Word} (yw : Window) (y : Word)
    (h : (x.toNat + 1) % 65536 ≠ xw.stop.toNat) : nextRow xw yw x y = y := by
  rw [nextRow_eq, if_neg (mt (reachesEnd_iff xw x).mp h)]

/-- R193: the row advances by the rule of its own axis when the column reaches its end. -/
theorem nextRow_of_column_eq {xw : Window} {x : Word} (yw : Window) (y : Word)
    (h : (x.toNat + 1) % 65536 = xw.stop.toNat) : nextRow xw yw x y = nextColumn yw y := by
  rw [nextRow_eq, if_pos ((reachesEnd_iff xw x).mpr h)]

/-- Settles O28: the cursor after the commit is `nextColumn` and `nextRow` of the one before, whose cases are
R193's. -/
theorem pixelCommitAdvancesTheCursor : Obligations.PixelCommitAdvancesTheCursor := by
  unfold Obligations.PixelCommitAdvancesTheCursor
  intro h b s hs
  refine ⟨_, exec_ramwr_second b hs, fun inside => ?_, fun atEnd => ?_⟩
  · exact ⟨toNat_nextColumn_of_ne inside, nextRow_of_column_ne _ _ inside⟩
  · rw [commitPixel_x, commitPixel_y, nextRow_of_column_eq _ _ atEnd]
    exact ⟨nextColumn_of_eq atEnd, toNat_nextColumn_of_ne, nextColumn_of_eq⟩

end Sys2Proof.Machine
end

