-- ==== Sys2Proof/Proofs/Noninterference.lean ====
section
/-! SUPPORT. The grid and the two display flags steer nothing: one step of two machines that differ in them, and
the statements of 46_memory_write.md R196 and 20_memory.md section 1. -/

namespace Sys2Proof.Machine

/-! ### The grid and the display flags -/

/-- Two states that are equal but for what SNAPSHOT shows, the grid and the two flags, and for the answers. -/
def EqualButShown (s s' : State) : Prop :=
  s' = { s with
    fb := s'.fb
    displayEnabled := s'.displayEnabled
    inverted := s'.inverted
    replies := s'.replies }

/-- Two states whose display flags are equal. -/
def SameFlags (s s' : State) : Prop := s'.displayEnabled = s.displayEnabled ∧ s'.inverted = s.inverted

/-- From the pair `(s, s')` to the pair `(t, t')`: both are equal but for what is shown, and neither the grids nor
the flags begin to differ. -/
def KeepsShown (s s' t t' : State) : Prop :=
  EqualButShown t t' ∧ (s'.fb = s.fb → t'.fb = t.fb) ∧ (SameFlags s s' → SameFlags t t')

theorem keepsShown_refl {s s' : State} (h : EqualButShown s s') : KeepsShown s s' s s' := ⟨h, id, id⟩

section
variable {s s' : State} (h : EqualButShown s s')
include h

/-- A command byte: each row writes the same into both states. -/
theorem exec_command_keepsShown (op : Byte) :
    ∃ t t', exec (rowOf op .command) s = .next t ∧ exec (rowOf op .command) s' = .next t' ∧
      KeepsShown s s' t t' := by
  refine ⟨_, _, exec_command_cases op s, exec_command_cases op s', ?_⟩
  rw [h]
  split_ifs
  · exact ⟨rfl, id, fun same => ⟨same.1, rfl⟩⟩
  · exact ⟨rfl, id, fun same => ⟨same.1, rfl⟩⟩
  · exact ⟨rfl, id, fun same => ⟨rfl, same.2⟩⟩
  · exact ⟨rfl, id, fun same => ⟨rfl, same.2⟩⟩
  · exact ⟨rfl, id, id⟩
  · exact ⟨rfl, id, id⟩

/-- A data byte: the pixel commit writes the same pixel to the same cell of both grids, and no other row writes
what is shown. -/
theorem exec_data_keepsShown (cmd b : Byte) :
    ∃ t t', exec (rowOf cmd (.data b)) s = .next t ∧ exec (rowOf cmd (.data b)) s' = .next t' ∧
      KeepsShown s s' t t' := by
  refine ⟨_, _, exec_data_cases cmd b s, exec_data_cases cmd b s', ?_⟩
  rw [h]
  split_ifs
  -- all but the pixel commit leave what is shown alone
  any_goals exact ⟨rfl, id, id⟩
  exact ⟨rfl, congrArg (Framebuffer.set s.device s.x s.y _), id⟩

/-- `WRITE_BYTE` reads of a state only the latches and `cmd` before it runs a row. -/
theorem writeByte_keepsShown (b : Byte) :
    ∃ t t', writeByte b s = .next t ∧ writeByte b s' = .next t' ∧ KeepsShown s s' t t' := by
  have latch : s'.chipSelect = s.chipSelect := by rw [h]
  have tag : s'.dataSelect = s.dataSelect := by rw [h]
  have current : s'.cmd = s.cmd := by rw [h]
  cases hc : s.chipSelect with
  | high =>
    rw [writeByte_deselected hc, writeByte_deselected (latch.trans hc)]
    exact ⟨s, s', rfl, rfl, keepsShown_refl h⟩
  | low =>
    cases hd : s.dataSelect with
    | low =>
      rw [writeByte_command hc hd, writeByte_command (latch.trans hc) (tag.trans hd)]
      exact exec_command_keepsShown h b
    | high =>
      rw [writeByte_data hc hd, writeByte_data (latch.trans hc) (tag.trans hd), current]
      exact exec_data_keepsShown h s.cmd b

/-- One operation: a snapshot shows what differs, and so makes the answers differ, but nothing else. -/
theorem perform_keepsShown (op : HostOp) :
    ∃ t t', perform op s = .next t ∧ perform op s' = .next t' ∧ KeepsShown s s' t t' := by
  cases op with
  | writeByte b => exact writeByte_keepsShown h b
  | csSet | dsSet | csGet | dsGet | snapshot =>
    refine ⟨_, _, rfl, rfl, ?_, id, id⟩
    rw [h]
    rfl

end

/-- One step of both machines. -/
theorem step_keepsShown {s s' : State} (h : EqualButShown s s') :
    ∃ t t', step s = .next t ∧ step s' = .next t' ∧ KeepsShown s s' t t' := by
  have pending : s'.ops = s.ops := by rw [h]
  cases hops : s.ops with
  | nil => exact ⟨s, s', step_idle hops, step_idle (pending.trans hops), keepsShown_refl h⟩
  | cons op rest =>
    rw [step_op hops, step_op (pending.trans hops)]
    have taken : EqualButShown (s.takeOp rest) (s'.takeOp rest) := by rw [h]; rfl
    exact perform_keepsShown taken op

/-- Settles O41: on the same grid, being equal but for what is shown is being equal but for the flags and the
answers; steps keep both, so runs do. -/
theorem displayFlagsConditionNothing : Obligations.DisplayFlagsConditionNothing := by
  unfold Obligations.DisplayFlagsConditionNothing
  intro n s d v
  have keeps : ∀ s s' : State, EqualButShown s s' ∧ s'.fb = s.fb →
      ∃ t t', step s = .next t ∧ step s' = .next t' ∧ EqualButShown t t' ∧ t'.fb = t.fb := by
    rintro s s' ⟨equal, sameGrid⟩
    obtain ⟨t, t', ht, ht', equal', grid, -⟩ := step_keepsShown equal
    exact ⟨t, t', ht, ht', equal', grid sameGrid⟩
  obtain ⟨t, t', ht, ht', equal, sameGrid⟩ := run_keeps_relation keeps n s
    { s with displayEnabled := d, inverted := v } ⟨rfl, rfl⟩
  exact ⟨t, t', ht, ht', by rw [equal, sameGrid]⟩

/-- Settles O42: with the same flags, being equal but for what is shown is being equal but for the grid and the
answers; steps keep both, so runs do. -/
theorem framebufferContentsSteerNothing : Obligations.FramebufferContentsSteerNothing := by
  unfold Obligations.FramebufferContentsSteerNothing
  intro n s f
  have keeps : ∀ s s' : State, EqualButShown s s' ∧ SameFlags s s' →
      ∃ t t', step s = .next t ∧ step s' = .next t' ∧ EqualButShown t t' ∧ SameFlags t t' := by
    rintro s s' ⟨equal, sameFlags⟩
    obtain ⟨t, t', ht, ht', equal', -, flags⟩ := step_keepsShown equal
    exact ⟨t, t', ht, ht', equal', flags sameFlags⟩
  obtain ⟨t, t', ht, ht', equal, sameDisplay, sameInversion⟩ := run_keeps_relation keeps n s
    { s with fb := f } ⟨rfl, rfl, rfl⟩
  exact ⟨t, t', ht, ht', by rw [equal, sameDisplay, sameInversion]⟩

end Sys2Proof.Machine
end

