-- ==== Sys2Proof/Proofs/Streams.lean ====
section
/-! SUPPORT. Runs over streams: what a list of operations makes of a state, as a relation that is built up
operation by operation and says nothing of the operations still to come; its rules for the pseudo-instructions of
30_encoding.md R108; and the statements about reads, MADCTL streams and deselected bursts (20_memory.md section 6,
47_access_control.md R207, 42_signal_lines.md R140). -/

namespace Sys2Proof.Machine

/-! ### The pending operations and the answers steer no operation -/

/-- The state with other operations pending and other answers given. -/
def State.mapStream (g : List HostOp → List HostOp) (h : List Reply → List Reply) (s : State) : State :=
  { s with ops := g s.ops, replies := h s.replies }

section
variable {s t : State} (g : List HostOp → List HostOp) (h : List Reply → List Reply)

theorem exec_command_mapStream {op : Byte} (ht : exec (rowOf op .command) s = .next t) :
    exec (rowOf op .command) (s.mapStream g h) = .next (t.mapStream g h) := by
  rw [exec_command_cases] at ht ⊢
  cases ht
  split_ifs <;> rfl

theorem exec_data_mapStream {cmd b : Byte} (ht : exec (rowOf cmd (.data b)) s = .next t) :
    exec (rowOf cmd (.data b)) (s.mapStream g h) = .next (t.mapStream g h) := by
  rw [exec_data_cases] at ht ⊢
  cases ht
  simp only [apply_ite (State.mapStream g h)]
  rfl

theorem writeByte_mapStream {b : Byte} (ht : writeByte b s = .next t) :
    writeByte b (s.mapStream g h) = .next (t.mapStream g h) := by
  cases hc : s.chipSelect with
  | high =>
    rw [writeByte_deselected hc] at ht
    cases ht
    exact writeByte_deselected (s := s.mapStream g h) hc b
  | low =>
    cases hd : s.dataSelect with
    | low =>
      rw [writeByte_command hc hd] at ht
      rw [writeByte_command (s := s.mapStream g h) hc hd]
      exact exec_command_mapStream g h ht
    | high =>
      rw [writeByte_data hc hd] at ht
      rw [writeByte_data (s := s.mapStream g h) hc hd]
      exact exec_data_mapStream g h ht

/-- An operation that is no read appends no answer, so it commutes with replacing the answers too. -/
theorem perform_mapStream {op : HostOp} (hop : isRead op = false) (ht : perform op s = .next t) :
    perform op (s.mapStream g h) = .next (t.mapStream g h) := by
  cases op with
  | writeByte b => exact writeByte_mapStream g h ht
  | csSet | dsSet => cases ht; rfl
  | csGet | dsGet | snapshot => cases hop

end

/-- Every operation commutes with placing other operations to come. -/
theorem perform_takeOp {s t : State} {op : HostOp} (ht : perform op s = .next t) (rest : List HostOp) :
    perform op (s.takeOp rest) = .next (t.takeOp rest) := by
  cases op with
  | writeByte b => exact writeByte_mapStream (fun _ => rest) id ht
  | csSet | dsSet | csGet | dsGet | snapshot => cases ht; rfl

/-! ### Performing a list of operations -/

/-- The operations of the list, performed one after the other, lead from the first state to the second. -/
inductive Performs : List HostOp → State → State → Prop where
  | nil {s : State} : Performs [] s s
  | cons {op : HostOp} {l : List HostOp} {s t u : State} (first : perform op s = .next t) (others : Performs l t u) :
      Performs (op :: l) s u

theorem Performs.append {l m : List HostOp} {s t u : State} (hl : Performs l s t) (hm : Performs m t u) :
    Performs (l ++ m) s u := by
  induction hl with
  | nil => exact hm
  | cons first _ ih => exact .cons first (ih hm)

theorem performs_singleton {op : HostOp} {s t : State} (h : perform op s = .next t) : Performs [op] s t :=
  .cons h .nil

/-- What `Performs` says of a run: the listed operations are taken, and those behind them are left. -/
theorem Performs.run_takeOp {l : List HostOp} {s t : State} (h : Performs l s t) (rest : List HostOp) :
    run l.length (s.takeOp (l ++ rest)) = .next (t.takeOp rest) := by
  induction h with
  | nil => rfl
  | @cons op l s t u first _ ih =>
    have firstStep : step (s.takeOp (op :: l ++ rest)) = .next (t.takeOp (l ++ rest)) :=
      (step_op rfl).trans (perform_takeOp first (l ++ rest))
    rw [List.length_cons, run_succ firstStep, ih]

theorem Performs.run_of_ops_append {l rest : List HostOp} {s t : State} (h : Performs l s t)
    (hops : s.ops = l ++ rest) :
    run l.length s = .next (t.takeOp rest) := by
  rw [← h.run_takeOp rest, ← hops]
  rfl

theorem Performs.run_of_ops {l : List HostOp} {s t : State} (h : Performs l s t) (hops : s.ops = l) :
    run s.ops.length s = .next (t.takeOp []) := by
  have whole : s.ops = l ++ [] := by rw [hops, List.append_nil]
  rw [← h.run_of_ops_append whole, hops]

/-- `CMD b` (R108): `data_select` goes `Low`, then the row of `b` runs. -/
theorem performs_cmdOps {s t : State} {b : Byte} (hc : s.chipSelect = .low)
    (h : exec (rowOf b .command) (s.dsSet .low) = .next t) : Performs (cmdOps b) s t :=
  .cons rfl (performs_singleton ((writeByte_command (s := s.dsSet .low) hc rfl b).trans h))

/-- `DAT b` (R108): `data_select` goes `High`, then the row of the current command runs. -/
theorem performs_datOps {s t : State} {b : Byte} (hc : s.chipSelect = .low)
    (h : exec (rowOf s.cmd (.data b)) (s.dsSet .high) = .next t) : Performs (datOps b) s t :=
  .cons rfl (performs_singleton ((writeByte_data (s := s.dsSet .high) hc rfl b).trans h))

/-! ### Reads left out (20_memory.md section 6) -/

/-- The state with the answers `rs` given. -/
def State.withReplies (rs : List Reply) (s : State) : State := s.mapStream id fun _ => rs

/-- The operations of a list, and those of them that are no reads, lead to states that are equal but for the
answers, of which the second gives none. -/
theorem performs_without_reads (l : List HostOp) (s : State) :
    ∃ t, Performs l s t ∧
      ∀ rs, Performs (l.filter fun op => !isRead op) (s.withReplies rs) (t.withReplies rs) := by
  induction l generalizing s with
  | nil => exact ⟨s, .nil, fun _ => .nil⟩
  | cons op l ih =>
    cases op with
    | csGet | dsGet | snapshot =>
      obtain ⟨t, all, withoutReads⟩ := ih (s.reply _)
      exact ⟨t, .cons rfl all, withoutReads⟩
    | csSet | dsSet | writeByte =>
      obtain ⟨u, first⟩ := perform_gives_next _ s
      obtain ⟨t, all, withoutReads⟩ := ih u
      exact ⟨t, .cons first all, fun rs => .cons (perform_mapStream id (fun _ => rs) rfl first) (withoutReads rs)⟩

/-- Settles O43: both lists of operations are performed, and the runs end in the states they lead to. -/
theorem readsDisturbNothing : Obligations.ReadsDisturbNothing := by
  unfold Obligations.ReadsDisturbNothing
  intro s
  obtain ⟨t, all, withoutReads⟩ := performs_without_reads s.ops s
  have run' := (withoutReads s.replies).run_takeOp []
  rw [List.append_nil] at run'
  exact ⟨_, _, all.run_of_ops rfl, run', rfl⟩

/-! ### Access-control streams (R207) -/

/-- `DAT b` under MADCTL. -/
theorem performs_madctl_byte {s : State} (hc : s.chipSelect = .low) (hcmd : s.cmd = 0x36#8) (b : Byte) :
    Performs (datOps b) s ((s.dsSet .high).setOrientation b) :=
  performs_datOps hc (by rw [hcmd]; exact exec_madctl_data b _)

/-- Every MADCTL data byte writes all four flags, so the last one decides them. -/
theorem performs_madctl_data {s : State} (hc : s.chipSelect = .low) (hcmd : s.cmd = 0x36#8) (bs : List Byte)
    (m : Byte) : Performs (dataOps (bs ++ [m])) s ((s.dsSet .high).setOrientation m) := by
  induction bs generalizing s with
  | nil => exact performs_madctl_byte hc hcmd m
  | cons b bs ih =>
    exact (performs_madctl_byte hc hcmd b).append (ih (s := (s.dsSet .high).setOrientation b) hc hcmd)

/-- Settles O51: the command byte latches, and `performs_madctl_data` does the rest. -/
theorem lastMadctlByteWins : Obligations.LastMadctlByteWins := by
  unfold Obligations.LastMadctlByteWins
  intro s bs m hc hops
  have command : Performs (cmdOps 0x36#8) s ((s.dsSet .low).latchCommand 0x36#8) :=
    performs_cmdOps hc (exec_madctl_command _)
  exact (command.append (performs_madctl_data (s := (s.dsSet .low).latchCommand 0x36#8) hc rfl bs m)).run_of_ops hops

/-! ### A deselected burst (R140, R151) -/

/-- Bytes presented to a deselected device lead nowhere. -/
theorem performs_deselected_bytes {s : State} (hc : s.chipSelect = .high) (bs : List Byte) :
    Performs (bs.map HostOp.writeByte) s s := by
  induction bs with
  | nil => exact .nil
  | cons b bs ih => exact .cons (writeByte_deselected hc b) ih

/-- Settles O53: the burst leads nowhere, and reselecting restores the latch. -/
theorem deselectedBurstLeavesTheCommandInProgress : Obligations.DeselectedBurstLeavesTheCommandInProgress := by
  unfold Obligations.DeselectedBurstLeavesTheCommandInProgress
  intro s bs rest hc hops
  have burst : Performs (deselectOps ++ (bs.map HostOp.writeByte ++ selectOps)) s
      ((s.csSet .high).csSet .low) :=
    (performs_singleton rfl).append
      ((performs_deselected_bytes (s := s.csSet .high) rfl bs).append (performs_singleton rfl))
  have restored : (s.csSet .high).csSet .low = s := by rw [State.csSet, State.csSet, ← hc]
  have runs := burst.run_of_ops_append (rest := rest) (by simpa using hops)
  rw [restored] at runs
  have count : bs.length + 2 = (deselectOps ++ (bs.map HostOp.writeByte ++ selectOps)).length := by
    simp [deselectOps, selectOps]
  rw [count]
  exact runs

end Sys2Proof.Machine
end

