-- ==== Sys2Proof/Proofs/WindowStreams.lean ====
section
/-! SUPPORT. CASET and PASET streams, said once for both axes: bytes that the buffer takes, complete groups of
four, and any number of bytes; and the statements of 45_window_set.md R185 and 30_encoding.md R108. -/

namespace Sys2Proof.Machine

/-! ### The two axes -/

/-- The axis of a window: CASET sets the one of the columns, PASET the one of the rows. -/
inductive Axis where
  | column
  | row

/-- The command that sets the axis' window (R104). -/
def Axis.opcode : Axis → Byte
  | .column => 0x2A#8
  | .row    => 0x2B#8

/-- The axis whose window the command leaves alone. -/
def Axis.other : Axis → Axis
  | .column => .row
  | .row    => .column

/-- The axis' window register (R25, R26). -/
def State.window (a : Axis) (s : State) : Window :=
  match a with
  | .column => s.xWindow
  | .row    => s.yWindow

/-- The write of the axis' window register (R183, R184). -/
def State.setWindow (a : Axis) (w : Window) (s : State) : State :=
  match a with
  | .column => s.setXWindow w
  | .row    => s.setYWindow w

/-- R180, R181 as one equation. -/
theorem exec_window_command (a : Axis) (s : State) :
    exec (rowOf a.opcode .command) s = .next (s.latchCommand a.opcode) := by
  cases a with
  | column => exact exec_caset_command s
  | row => exact exec_paset_command s

/-- R182 for both axes. -/
theorem exec_window_push (a : Axis) (b : Byte) {s : State} (h : s.pbuf.length < 3) :
    exec (rowOf a.opcode (.data b)) s = .next (s.pushParam b) := by
  cases a with
  | column => exact (exec_caset_data b s).trans (by rw [if_pos h])
  | row => exact (exec_paset_data b s).trans (by rw [if_pos h])

/-- R183, R184 as one equation. -/
theorem exec_window_fourth (a : Axis) {p1 p2 p3 : Byte} (b : Byte) {s : State} (h : s.pbuf = [p1, p2, p3]) :
    exec (rowOf a.opcode (.data b)) s =
      .next (({ s with pbuf := [] } : State).setWindow a ⟨joinBytes p1 p2, joinBytes p3 b⟩) := by
  cases a with
  | column => exact exec_caset_fourth b h
  | row => exact exec_paset_fourth b h

/-! ### Data bytes under a window command -/

/-- The state of a device in the middle of a window stream: under the axis' command, with the bytes `p` of an
unfinished group and the window `w`. -/
def State.inGroup (a : Axis) (w : Window) (p : List Byte) (s : State) : State :=
  { s with cmd := a.opcode, pbuf := p }.setWindow a w

section
variable (s : State) (a : Axis) (w : Window) (p : List Byte)

@[simp] theorem inGroup_chipSelect : (s.inGroup a w p).chipSelect = s.chipSelect := by cases a <;> rfl
@[simp] theorem inGroup_cmd : (s.inGroup a w p).cmd = a.opcode := by cases a <;> rfl
@[simp] theorem inGroup_pbuf : (s.inGroup a w p).pbuf = p := by cases a <;> rfl
@[simp] theorem inGroup_window : (s.inGroup a w p).window a = w := by cases a <;> rfl

theorem inGroup_other : (s.inGroup a w p).window a.other = s.window a.other := by cases a <;> rfl

/-- R182, R183: within a stream a group does not touch the cursor and the grid. -/
theorem inGroup_frame :
    (s.inGroup a w p).x = s.x ∧ (s.inGroup a w p).y = s.y ∧ (s.inGroup a w p).fb = s.fb := by
  cases a <;> exact ⟨rfl, rfl, rfl⟩

theorem dsSet_inGroup (l : Level) : (s.inGroup a w p).dsSet l = (s.dsSet l).inGroup a w p := by cases a <;> rfl

theorem pushParam_inGroup (b : Byte) : (s.inGroup a w p).pushParam b = s.inGroup a w (p ++ [b]) := by
  cases a <;> rfl

theorem setWindow_inGroup (w' : Window) :
    ({ s.inGroup a w p with pbuf := [] } : State).setWindow a w' = s.inGroup a w' [] := by cases a <;> rfl

end

section
variable {s : State} (hc : s.chipSelect = .low) (a : Axis) (w : Window)
include hc

/-- The command byte begins a group (R152, R180, R181). -/
theorem performs_window_command : Performs (cmdOps a.opcode) s ((s.dsSet .low).inGroup a (s.window a) []) := by
  have latched : (s.dsSet .low).inGroup a (s.window a) [] = (s.dsSet .low).latchCommand a.opcode := by
    cases a <;> rfl
  rw [latched]
  exact performs_cmdOps hc (exec_window_command a _)

/-- One of the first three bytes of a group (R182). -/
theorem performs_window_push {p : List Byte} (hp : p.length < 3) (b : Byte) :
    Performs (datOps b) (s.inGroup a w p) ((s.dsSet .high).inGroup a w (p ++ [b])) := by
  refine performs_datOps ((inGroup_chipSelect s a w p).trans hc) ?_
  rw [inGroup_cmd, dsSet_inGroup, exec_window_push a b (by rwa [inGroup_pbuf]), pushParam_inGroup]

/-- The byte that completes a group (R183, R184). -/
theorem performs_window_fourth (p1 p2 p3 b : Byte) :
    Performs (datOps b) (s.inGroup a w [p1, p2, p3])
      ((s.dsSet .high).inGroup a ⟨joinBytes p1 p2, joinBytes p3 b⟩ []) := by
  refine performs_datOps ((inGroup_chipSelect s a w _).trans hc) ?_
  rw [inGroup_cmd, dsSet_inGroup, exec_window_fourth a b (inGroup_pbuf _ a w _), setWindow_inGroup]

/-- Four bytes from the start of a group on: three are buffered, the fourth commits. -/
theorem performs_window_group (p1 p2 p3 p4 : Byte) :
    Performs (dataOps [p1, p2, p3, p4]) (s.inGroup a w [])
      ((s.dsSet .high).inGroup a ⟨joinBytes p1 p2, joinBytes p3 p4⟩ []) :=
  (performs_window_push hc a w (p := []) (by simp) p1).append <|
  (performs_window_push (s := s.dsSet .high) hc a w (p := [p1]) (by simp) p2).append <|
  (performs_window_push (s := s.dsSet .high) hc a w (p := [p1, p2]) (by simp) p3).append <|
  (performs_window_fourth (s := s.dsSet .high) hc a w p1 p2 p3 p4).append .nil

/-- A group that stays unfinished is all in the buffer. -/
theorem performs_window_unfinished (p bs : List Byte) (hlen : p.length + bs.length ≤ 3) :
    ∃ l, Performs (dataOps bs) (s.inGroup a w p) ((s.dsSet l).inGroup a w (p ++ bs)) := by
  induction bs generalizing s p with
  | nil =>
    rw [List.append_nil]
    exact ⟨s.dataSelect, .nil⟩
  | cons b bs ih =>
    rw [List.length_cons] at hlen
    have push := performs_window_push hc a w (p := p) (by omega) b
    obtain ⟨l, others⟩ := ih (s := s.dsSet .high) hc (p ++ [b])
      (by rw [List.length_append, List.length_singleton]; omega)
    rw [List.append_assoc] at others
    exact ⟨l, push.append others⟩

end

/-- What the data bytes of a window stream come to: the window of the last complete group of four, or `w` when
there is none, and the bytes of the unfinished group (R185). -/
def groupsOfFour : Window → List Byte → Window × List Byte
  | _, p1 :: p2 :: p3 :: p4 :: bs => groupsOfFour ⟨joinBytes p1 p2, joinBytes p3 p4⟩ bs
  | w, bs => (w, bs)

theorem groupsOfFour_of_short (w : Window) {bs : List Byte} (h : bs.length < 4) : groupsOfFour w bs = (w, bs) := by
  match bs, h with
  | [], _ | [_], _ | [_, _], _ | [_, _, _], _ => rfl

/-- The second equation of `groupsOfFour` applies to lists of fewer than four bytes. -/
theorem length_lt_four {bs : List Byte} (h : ∀ p1 p2 p3 p4 rest, bs = p1 :: p2 :: p3 :: p4 :: rest → False) :
    bs.length < 4 := by
  match bs, h with
  | [], _ | [_], _ | [_, _], _ | [_, _, _], _ => simp
  | p1 :: p2 :: p3 :: p4 :: rest, h => exact (h p1 p2 p3 p4 rest rfl).elim

/-- One group more in front. -/
theorem length_div_four_cons (p1 p2 p3 p4 : Byte) (bs : List Byte) :
    (p1 :: p2 :: p3 :: p4 :: bs).length / 4 * 4 = bs.length / 4 * 4 + 4 := by
  simp only [List.length_cons]
  omega

/-- The unfinished group is what is left over when groups of four are taken away. -/
theorem groupsOfFour_snd (w : Window) (bs : List Byte) :
    (groupsOfFour w bs).2 = bs.drop (bs.length / 4 * 4) := by
  induction w, bs using groupsOfFour.induct with
  | case1 w p1 p2 p3 p4 bs ih => rw [groupsOfFour, ih, length_div_four_cons]; rfl
  | case2 w bs short =>
    have hlen := length_lt_four short
    rw [groupsOfFour_of_short w hlen, Nat.div_eq_of_lt hlen, Nat.zero_mul, List.drop_zero]

/-- The window of a stream is that of its last complete group. -/
theorem groupsOfFour_fst {q1 q2 q3 q4 : Byte} (w : Window) (bs : List Byte)
    (last : (bs.take (bs.length / 4 * 4)).reverse.take 4 = [q4, q3, q2, q1]) :
    (groupsOfFour w bs).1 = ⟨joinBytes q1 q2, joinBytes q3 q4⟩ := by
  induction w, bs using groupsOfFour.induct with
  | case1 w p1 p2 p3 p4 bs ih =>
    have complete : ((p1 :: p2 :: p3 :: p4 :: bs).take ((p1 :: p2 :: p3 :: p4 :: bs).length / 4 * 4)).reverse =
        (bs.take (bs.length / 4 * 4)).reverse ++ [p4, p3, p2, p1] := by
      rw [length_div_four_cons]
      simp [List.take_succ_cons]
    rw [complete] at last
    rw [groupsOfFour]
    by_cases short : bs.length < 4
    · have onlyGroup : [p4, p3, p2, p1] = [q4, q3, q2, q1] := by
        simpa [Nat.div_eq_of_lt short] using last
      cases onlyGroup
      rw [groupsOfFour_of_short _ short]
    · refine ih ?_
      have long : 4 ≤ (bs.take (bs.length / 4 * 4)).reverse.length := by
        rw [List.length_reverse, List.length_take]
        omega
      rwa [List.take_append_of_le_length long] at last
  | case2 w bs short => simp [Nat.div_eq_of_lt (length_lt_four short)] at last

/-- Any number of data bytes under a window command (R185, D11). -/
theorem performs_window_data {s : State} (hc : s.chipSelect = .low) (a : Axis) (w : Window) (bs : List Byte) :
    ∃ l, Performs (dataOps bs) (s.inGroup a w [])
      ((s.dsSet l).inGroup a (groupsOfFour w bs).1 (groupsOfFour w bs).2) := by
  induction w, bs using groupsOfFour.induct generalizing s with
  | case1 w p1 p2 p3 p4 bs ih =>
    obtain ⟨l, others⟩ := ih (s := s.dsSet .high) hc
    exact ⟨l, (performs_window_group hc a w p1 p2 p3 p4).append others⟩
  | case2 w bs short =>
    have hlen := length_lt_four short
    rw [groupsOfFour_of_short w hlen]
    exact performs_window_unfinished hc a w [] bs (by rw [List.length_nil]; omega)

/-! ### The statements -/

/-- A whole stream of either command: what it does to its own window, to the buffer and to nothing else. -/
theorem run_window_stream (a : Axis) (s : State) (bs : List Byte) (hc : s.chipSelect = .low)
    (hops : s.ops = cmdOps a.opcode ++ dataOps bs) :
    ∃ t, run s.ops.length s = .next t ∧ t.cmd = a.opcode ∧ t.pbuf = bs.drop (bs.length / 4 * 4) ∧
      (bs.length < 4 → t.window a = s.window a) ∧
      (∀ p1 p2 p3 p4, (bs.take (bs.length / 4 * 4)).reverse.take 4 = [p4, p3, p2, p1] →
        t.window a = ⟨joinBytes p1 p2, joinBytes p3 p4⟩) ∧
      t.window a.other = s.window a.other ∧ t.x = s.x ∧ t.y = s.y ∧ t.fb = s.fb := by
  obtain ⟨l, data⟩ := performs_window_data (s := s.dsSet .low) hc a (s.window a) bs
  have runs := ((performs_window_command hc a).append data).run_of_ops hops
  refine ⟨_, runs, inGroup_cmd .., (inGroup_pbuf ..).trans (groupsOfFour_snd _ bs), fun short => ?_,
    fun p1 p2 p3 p4 last => ?_, inGroup_other .., inGroup_frame ..⟩
  · exact (inGroup_window ..).trans (by rw [groupsOfFour_of_short _ short])
  · exact (inGroup_window ..).trans (groupsOfFour_fst _ bs last)

/-- Settles O50: `run_window_stream` at the two axes. -/
theorem windowBytesCommitInGroupsOfFour : Obligations.WindowBytesCommitInGroupsOfFour := by
  unfold Obligations.WindowBytesCommitInGroupsOfFour
  intro s bs hc
  exact ⟨run_window_stream .column s bs hc, run_window_stream .row s bs hc⟩

/-- The stream of one window, sent high bytes first, sets that window (R93, R108). -/
theorem performs_window_stream {s : State} (hc : s.chipSelect = .low) (a : Axis) (w : Window) :
    Performs (cmdOps a.opcode ++ dataOps (windowBytes w)) s ((s.dsSet .high).inGroup a w []) := by
  have group := performs_window_group (s := s.dsSet .low) hc a (s.window a)
    (highByte w.start) (lowByte w.start) (highByte w.stop) (lowByte w.stop)
  simp only [joinBytes_highByte_lowByte] at group
  exact (performs_window_command hc a).append group

/-- Settles O49: `performs_window_stream` at the two axes, whose writes are read off. -/
theorem windowStreamsSetTheirWindow : Obligations.WindowStreamsSetTheirWindow := by
  unfold Obligations.WindowStreamsSetTheirWindow
  intro s w rest hc
  exact ⟨(performs_window_stream hc .column w).run_of_ops_append,
    (performs_window_stream hc .row w).run_of_ops_append⟩

end Sys2Proof.Machine
end

