-- ==== Sys2Proof/Proofs/CursorLaw.lean ====
section
/-! SUPPORT. The closed cursor law (46_memory_write.md R195): the points of the commits follow from one another by
the cursor advance (R193), the grid and the ghost grow by one commit per word; and the statements about pixel
streams with any windows (R194, R195). -/

namespace Sys2Proof.Machine

/-! ### The points of the commits -/

/-- The coordinate of an axis `j` columns, or rows, after the window's start. -/
def Window.point (w : Window) (j : Nat) : Word := w.start + BitVec.ofNat 16 j

theorem point_zero (w : Window) : w.point 0 = w.start := by simp [Window.point]

theorem point_toNat (w : Window) (j : Nat) : (w.point j).toNat = (w.start.toNat + j) % 65536 := by
  simp [Window.point]

theorem point_succ (w : Window) (j : Nat) : w.point j + 1#16 = w.point (j + 1) := by
  apply BitVec.eq_of_toNat_eq
  rw [toNat_add_one, point_toNat, point_toNat]
  omega

theorem period_pos (w : Window) : 0 < w.period := Nat.succ_pos _

/-- The period is the distance from `start` up to `stop`, where equal bounds are a whole turn apart (D1). -/
theorem start_add_period (w : Window) : (w.start.toNat + w.period) % 65536 = w.stop.toNat := by
  have hs := w.start.isLt
  have he := w.stop.isLt
  simp only [Window.period, BitVec.toNat_sub, BitVec.toNat_ofNat]
  omega

/-- Within one period the end is reached at its last point only. -/
theorem reachesEnd_point (w : Window) {j : Nat} (hj : j < w.period) :
    reachesEnd w (w.point j) = true ↔ j + 1 = w.period := by
  have bound : w.period ≤ 65536 := (w.stop - w.start - 1#16).isLt
  have atEnd := start_add_period w
  rw [reachesEnd_iff, point_toNat]
  omega

/-- R193 on one axis: the advance counts the points of a period in a circle. -/
theorem nextColumn_point (w : Window) (k : Nat) :
    nextColumn w (w.point (k % w.period)) = w.point ((k + 1) % w.period) := by
  have inPeriod := Nat.mod_lt k (period_pos w)
  have count : (k + 1) % w.period = (k % w.period + 1) % w.period := (Nat.mod_add_mod k w.period 1).symm
  rw [count]
  by_cases last : k % w.period + 1 = w.period
  · rw [nextColumn_wrap ((reachesEnd_point w inPeriod).mpr last), last, Nat.mod_self, point_zero]
  · have inside := Bool.eq_false_iff.mpr (mt (reachesEnd_point w inPeriod).mp last)
    have counted : k % w.period + 1 < w.period := by omega
    rw [nextColumn_inc inside, point_succ, Nat.mod_eq_of_lt counted]

/-- The column of the next commit is the column after this one (R193, R195). -/
theorem nextColumn_commitColumn (xw : Window) (k : Nat) :
    nextColumn xw (commitColumn xw k) = commitColumn xw (k + 1) :=
  nextColumn_point xw k

/-- The quotient counts on exactly when the remainder was the last one. -/
theorem succ_dvd_iff {n : Nat} (hn : 0 < n) (k : Nat) : n ∣ k + 1 ↔ k % n + 1 = n := by
  have inPeriod := Nat.mod_lt k hn
  rw [Nat.dvd_iff_mod_eq_zero, ← Nat.mod_add_mod]
  constructor
  · intro h
    by_contra notLast
    rw [Nat.mod_eq_of_lt (by omega)] at h
    omega
  · intro last
    rw [last, Nat.mod_self]

/-- The row of the next commit is the row after this one (R193, R195). -/
theorem nextRow_commitRow (xw yw : Window) (k : Nat) :
    nextRow xw yw (commitColumn xw k) (commitRow xw yw k) = commitRow xw yw (k + 1) := by
  have wraps : reachesEnd xw (commitColumn xw k) = true ↔ xw.period ∣ k + 1 :=
    (reachesEnd_point xw (Nat.mod_lt k (period_pos xw))).trans (succ_dvd_iff (period_pos xw) k).symm
  rw [nextRow_eq]
  split_ifs with atEnd
  · rw [commitRow, commitRow, Nat.succ_div_of_dvd (wraps.mp atEnd)]
    exact nextColumn_point yw (k / xw.period)
  · rw [commitRow, commitRow, Nat.succ_div_of_not_dvd (mt wraps.mpr atEnd)]

/-! ### The grid and the ghost -/

theorem gridAfter_concat (d : Device) (xw yw : Window) (f : Framebuffer) (ws : List Word) (w : Word) :
    gridAfter d xw yw f (ws ++ [w]) = (gridAfter d xw yw f ws).set d (commitColumn xw ws.length)
      (commitRow xw yw ws.length) (decodePixel d.layout w) := by
  simp [gridAfter, List.zipIdx_append]

theorem someDrop_succ (d : Device) (xw yw : Window) (n : Nat) :
    someDrop d xw yw (n + 1) = (someDrop d xw yw n || !inGrid d (commitColumn xw n) (commitRow xw yw n)) := by
  simp [someDrop, List.range_succ]

/-! ### Pixel streams -/

/-- The state after RAMWR and the words `ws`, by the closed law (R195). -/
def State.afterPixels (ws : List Word) (s : State) : State :=
  { s with
    dataSelect := if ws = [] then .low else .high
    cmd := 0x2C#8
    pbuf := []
    x := commitColumn s.xWindow ws.length
    y := commitRow s.xWindow s.yWindow ws.length
    fb := gridAfter s.device s.xWindow s.yWindow s.fb ws
    oobSeen := s.oobSeen || someDrop s.device s.xWindow s.yWindow ws.length }

/-- With no word sent, the law describes the RAMWR command byte (R190). -/
theorem afterPixels_nil (s : State) :
    s.afterPixels [] = ((s.dsSet .low).latchCommand 0x2C#8).setCursor s.xWindow.start s.yWindow.start := by
  simp [State.afterPixels, commitColumn, commitRow, gridAfter, someDrop, State.setCursor, State.latchCommand,
    State.dsSet]

/-- One word more is one commit more (R192, R193). -/
theorem afterPixels_concat (s : State) (ws : List Word) (w : Word) :
    s.afterPixels (ws ++ [w]) = ((s.afterPixels ws).dsSet .high).commitPixel w := by
  simp [State.afterPixels, gridAfter_concat, someDrop_succ, ← nextColumn_commitColumn, ← nextRow_commitRow,
    State.commitPixel, State.fbSet, State.advanceCursor, State.setCursor, State.dsSet, Bool.or_assoc]

/-- A data byte under RAMWR belongs to its row (R154). -/
theorem rowOf_ramwr_data {cmd : Byte} (hcmd : cmd = 0x2C#8) (b : Byte) :
    rowOf cmd (.data b) = .ramwr (.data b) := by
  rw [hcmd]
  rfl

/-- The first byte of a pair (R191). -/
theorem performs_pixel_push {s : State} (hc : s.chipSelect = .low) (hcmd : s.cmd = 0x2C#8) (hp : s.pbuf = [])
    (b : Byte) : Performs (datOps b) s { s with dataSelect := .high, pbuf := [b] } :=
  performs_datOps hc (by rw [rowOf_ramwr_data hcmd]; exact firstPixelByteIsHeld b (s.dsSet .high) hp)

/-- The second byte of a pair (R192). -/
theorem performs_pixel_second {s : State} (hc : s.chipSelect = .low) (hcmd : s.cmd = 0x2C#8) {h : Byte}
    (hp : s.pbuf = [h]) (b : Byte) :
    Performs (datOps b) s
      (({ s with dataSelect := .high, pbuf := [] } : State).commitPixel (joinBytes h b)) :=
  performs_datOps hc (by rw [rowOf_ramwr_data hcmd]; exact exec_ramwr_second (s := s.dsSet .high) b hp)

/-- `PIX w` (R108): the pair is held and committed. -/
theorem performs_pixOps {s : State} (hc : s.chipSelect = .low) (hcmd : s.cmd = 0x2C#8) (hp : s.pbuf = [])
    (w : Word) : Performs (pixOps w) s ((s.dsSet .high).commitPixel w) := by
  have first := performs_pixel_push hc hcmd hp (highByte w)
  have second := performs_pixel_second (s := { s with dataSelect := .high, pbuf := [highByte w] }) hc hcmd rfl
    (lowByte w)
  have emptied : ({ s with dataSelect := .high, pbuf := [] } : State) = s.dsSet .high := by
    rw [State.dsSet, ← hp]
  rw [joinBytes_highByte_lowByte, emptied] at second
  exact first.append (second.append .nil)

/-- RAMWR and any words lead to the state of the closed law (R195). -/
theorem performs_pixel_stream {s : State} (hc : s.chipSelect = .low) (ws : List Word) :
    Performs (ramwrOps ++ pixelsOps ws) s (s.afterPixels ws) := by
  induction ws using List.reverseRecOn with
  | nil =>
    rw [afterPixels_nil]
    exact performs_cmdOps hc (exec_ramwr_command _)
  | append_singleton ws w ih =>
    rw [afterPixels_concat, pixelsOps, List.flatMap_append, List.flatMap_singleton, ← List.append_assoc]
    exact ih.append (performs_pixOps (s := s.afterPixels ws) hc rfl rfl w)

/-- Settles O54: the run of the stream ends in the state of the closed law, with no operation left. -/
theorem pixelStreamFollowsTheCursorLaw : Obligations.PixelStreamFollowsTheCursorLaw := by
  unfold Obligations.PixelStreamFollowsTheCursorLaw
  intro s ws hc hops
  exact (performs_pixel_stream hc ws).run_of_ops hops

/-! ### An odd byte at the end of a stream (R194) -/

/-- A command byte does not read what it discards: the buffer and the level of `data_select` before it. -/
theorem performs_cmdOps_after_pending {s t : State} {c : Byte} (hc : s.chipSelect = .low) (l : Level)
    (p : List Byte) (h : exec (rowOf c .command) (s.dsSet .low) = .next t) :
    Performs (cmdOps c) { s with dataSelect := l, pbuf := p } t :=
  performs_cmdOps hc (by rw [← h, exec_command_cases, exec_command_cases]; rfl)

/-- Settles O52: the odd byte moves only what the next command byte discards, `data_select` and the buffer. -/
theorem oddPixelByteIsLostAtTheNextCommand : Obligations.OddPixelByteIsLostAtTheNextCommand := by
  unfold Obligations.OddPixelByteIsLostAtTheNextCommand
  intro s ws h c hc
  have words := performs_pixel_stream hc ws
  have odd := performs_pixel_push (s := s.afterPixels ws) hc rfl rfl h
  obtain ⟨t, ht, cmd, pbuf⟩ := exec_command_latches c ((s.afterPixels ws).dsSet .low)
  have withOdd := ((words.append odd).append
    (performs_cmdOps_after_pending (s := s.afterPixels ws) hc .high [h] ht)).run_takeOp []
  have without := (words.append (performs_cmdOps (s := s.afterPixels ws) hc ht)).run_takeOp []
  rw [List.append_nil] at withOdd without
  exact ⟨t.takeOp [], withOdd, without, cmd, pbuf⟩

end Sys2Proof.Machine
end

