-- ==== Sys2Proof/Proofs/WindowFill.lean ====
section
/-! SUPPORT. One period of pixel words in a window inside the framebuffer: the commits count the window row by row,
reach each of its cells once and end at its start (46_memory_write.md R195 (a), 90_conflicts.md C3). -/

namespace Sys2Proof.Machine

/-! ### Reading a grid after a stream of words -/

/-- The cell of the `k`-th commit after RAMWR (R192, R195), where it is inside the grid. -/
def commitCell (d : Device) (xw yw : Window) (k : Nat) : Nat :=
  cellIndex d (commitColumn xw k) (commitRow xw yw k)

section
variable {d : Device} {xw yw : Window} {f : Framebuffer}

theorem gridAfter_wf (hf : f.wf) (ws : List Word) : (gridAfter d xw yw f ws).wf := by
  induction ws using List.reverseRecOn with
  | nil => exact hf
  | append_singleton ws w ih =>
    rw [gridAfter_concat]
    exact Framebuffer.set_wf ih ..

/-- A cell that none of the words is committed to keeps its pixel. -/
theorem read_gridAfter_elsewhere (hf : f.wf) {idx : Nat} (ws : List Word)
    (other : ∀ k < ws.length, idx ≠ commitCell d xw yw k) : (gridAfter d xw yw f ws).read idx = f.read idx := by
  induction ws using List.reverseRecOn with
  | nil => rfl
  | append_singleton ws w ih =>
    rw [List.length_append, List.length_singleton] at other
    rw [gridAfter_concat, Framebuffer.read_set (gridAfter_wf hf ws),
      if_neg fun hit => other ws.length (Nat.lt_succ_self _) hit.2.symm]
    exact ih fun k hk => other k (by omega)

/-- Where the commits are inside the grid and no two of them share a cell, every word is in its own. -/
theorem read_gridAfter_commitCell (hf : f.wf) (ws : List Word)
    (inside : ∀ k < ws.length, inGrid d (commitColumn xw k) (commitRow xw yw k) = true)
    (apart : ∀ k < ws.length, ∀ j < k, commitCell d xw yw j ≠ commitCell d xw yw k) {k : Nat}
    (hk : k < ws.length) :
    (gridAfter d xw yw f ws).read (commitCell d xw yw k) = decodePixel d.layout (ws.getD k 0#16) := by
  induction ws using List.reverseRecOn with
  | nil => simp at hk
  | append_singleton ws w ih =>
    rw [List.length_append, List.length_singleton] at hk inside apart
    rw [gridAfter_concat, Framebuffer.read_set (gridAfter_wf hf ws)]
    obtain hlt | rfl : k < ws.length ∨ k = ws.length := by omega
    · rw [if_neg fun hit => apart ws.length (Nat.lt_succ_self _) k hlt hit.2.symm,
        List.getD_append _ _ _ _ hlt]
      exact ih (fun j hj => inside j (by omega)) (fun j hj => apart j (by omega)) hlt
    · rw [if_pos ⟨inside _ (Nat.lt_succ_self _), rfl⟩]
      simp

theorem someDrop_eq_false {n : Nat} (inside : ∀ k < n, inGrid d (commitColumn xw k) (commitRow xw yw k) = true) :
    someDrop d xw yw n = false := by
  simpa [someDrop] using inside

end

/-! ### One period -/

/-- A window that goes up from `start` to `stop` has a period of as many points as lie between them. -/
theorem period_of_add {w : Window} {n : Nat} (hn : 0 < n) (h : w.start.toNat + n = w.stop.toNat) :
    w.period = n := by
  have hs := w.start.isLt
  have he := w.stop.isLt
  simp only [Window.period, BitVec.toNat_sub, BitVec.toNat_ofNat]
  omega

/-- The points of such a window are counted up from its start. -/
theorem point_toNat_of_lt {w : Window} {n j : Nat} (h : w.start.toNat + n = w.stop.toNat) (hj : j < n) :
    (w.point j).toNat = w.start.toNat + j := by
  have he := w.stop.isLt
  rw [point_toNat]
  omega

section
variable {xw yw : Window} {nx ny : Nat} (hnx : 0 < nx) (hny : 0 < ny)
  (hx : xw.start.toNat + nx = xw.stop.toNat) (hy : yw.start.toNat + ny = yw.stop.toNat)
include hnx hx

theorem commitColumn_toNat (k : Nat) : (commitColumn xw k).toNat = xw.start.toNat + k % nx := by
  rw [commitColumn, period_of_add hnx hx]
  exact point_toNat_of_lt hx (Nat.mod_lt k hnx)

include hny hy

theorem commitRow_toNat {k : Nat} (hk : k < nx * ny) : (commitRow xw yw k).toNat = yw.start.toNat + k / nx := by
  have row : k / nx < ny := Nat.div_lt_of_lt_mul hk
  rw [commitRow, period_of_add hnx hx, period_of_add hny hy, Nat.mod_eq_of_lt row]
  exact point_toNat_of_lt hy row

/-- The commits of one period count the window row-major. -/
theorem commitCell_eq (d : Device) {k : Nat} (hk : k < nx * ny) :
    commitCell d xw yw k = (yw.start.toNat + k / nx) * d.width + (xw.start.toNat + k % nx) := by
  rw [commitCell, cellIndex, commitColumn_toNat hnx hx, commitRow_toNat hnx hny hx hy hk]

/-- With the windows inside the framebuffer no commit of one period is dropped. -/
theorem inGrid_commit {d : Device} (hw : xw.stop.toNat ≤ d.width) (hh : yw.stop.toNat ≤ d.height) {k : Nat}
    (hk : k < nx * ny) : inGrid d (commitColumn xw k) (commitRow xw yw k) = true := by
  have column := Nat.mod_lt k hnx
  have row : k / nx < ny := Nat.div_lt_of_lt_mul hk
  rw [inGrid_iff, commitColumn_toNat hnx hx, commitRow_toNat hnx hny hx hy hk]
  omega

/-- No two commits of one period share a cell. -/
theorem commitCell_inj {d : Device} (hw : xw.stop.toNat ≤ d.width) (hh : yw.stop.toNat ≤ d.height) {j k : Nat}
    (hj : j < nx * ny) (hk : k < nx * ny) (same : commitCell d xw yw j = commitCell d xw yw k) : j = k := by
  obtain ⟨column, row⟩ := cellIndex_inj (inGrid_commit hnx hny hx hy hw hh hj)
    (inGrid_commit hnx hny hx hy hw hh hk) same
  have columns := congrArg BitVec.toNat column
  have rows := congrArg BitVec.toNat row
  rw [commitColumn_toNat hnx hx, commitColumn_toNat hnx hx, Nat.add_left_cancel_iff] at columns
  rw [commitRow_toNat hnx hny hx hy hj, commitRow_toNat hnx hny hx hy hk, Nat.add_left_cancel_iff] at rows
  rw [← Nat.div_add_mod j nx, rows, columns, Nat.div_add_mod]

/-- After one period the next commit is at the window start. -/
theorem commit_after_period :
    commitColumn xw (nx * ny) = xw.start ∧ commitRow xw yw (nx * ny) = yw.start := by
  rw [commitColumn, commitRow, period_of_add hnx hx, period_of_add hny hy, Nat.mul_mod_right,
    Nat.mul_div_cancel_left ny hnx, Nat.mod_self]
  exact ⟨point_zero xw, point_zero yw⟩

end

/-- Settles O55: the run ends in the state of the closed law (O54); each cell of the window is the cell of one
commit, whose number gives its row and column as quotient and remainder. -/
theorem onePeriodFillsTheWindowRowMajor : Obligations.OnePeriodFillsTheWindowRowMajor := by
  unfold Obligations.OnePeriodFillsTheWindowRowMajor
  intro s ws nx ny hc canonical windows hx hy hlen hops
  obtain ⟨⟨xUp, hw⟩, yUp, hh⟩ := windows
  have hnx : 0 < nx := by omega
  have hny : 0 < ny := by omega
  have inside : ∀ k < ws.length, inGrid s.device (commitColumn s.xWindow k) (commitRow s.xWindow s.yWindow k) :=
    fun k hk => inGrid_commit hnx hny hx hy hw hh (hlen ▸ hk)
  refine ⟨_, pixelStreamFollowsTheCursorLaw s ws hc hops, fun i j hi hj => ?_, fun idx outside => ?_, ?_⟩
  · have rows : nx * (j + 1) ≤ nx * ny := Nat.mul_le_mul_left nx hj
    have hk : nx * j + i < nx * ny := by rw [Nat.mul_succ] at rows; omega
    have cell := commitCell_eq hnx hny hx hy s.device hk
    rw [Nat.mul_add_div hnx, Nat.div_eq_of_lt hi, Nat.mul_add_mod, Nat.mod_eq_of_lt hi, Nat.add_zero] at cell
    rw [← cell, Nat.mul_comm j nx]
    refine read_gridAfter_commitCell canonical ws inside (fun k hk j hj same => ?_) (hlen ▸ hk)
    exact hj.ne (commitCell_inj hnx hny hx hy hw hh (hlen ▸ hj.trans hk) (hlen ▸ hk) same)
  · refine read_gridAfter_elsewhere canonical ws fun k hk => ?_
    rw [hlen] at hk
    rw [commitCell_eq hnx hny hx hy s.device hk]
    exact outside (k % nx) (k / nx) (Nat.mod_lt k hnx) (Nat.div_lt_of_lt_mul hk)
  · have notEmpty : ws ≠ [] := List.ne_nil_of_length_pos (hlen ▸ Nat.mul_pos hnx hny)
    obtain ⟨column, row⟩ := commit_after_period hnx hny hx hy
    rw [someDrop_eq_false inside, hlen, column, row, if_neg notEmpty, Bool.or_false]

end Sys2Proof.Machine
end
